-- ==== Sys2Proof/Word.lean ====
section
/-! DEFINITION. The fixed widths of spec/00_scope.md R4: a byte, a result or command word (`RES_W = 32`), an index or length
(`IDX_W = LEN_W = 24`), a timestamp (`TS_W = 32`). -/

namespace Sys2Proof

/-- One byte of a buffer (spec/20_memory.md R64). -/
abbrev Byte := BitVec 8

/-- A 32-bit command word (spec/30_encoding.md R91) or result word (R98, two's complement). -/
abbrev Word := BitVec 32

/-- An index register or a length operand: `IDX_W = LEN_W = 24` bits (spec/00_scope.md R4). -/
abbrev Idx := BitVec 24

/-- A timestamp: `TS_W = 32` bits, unsigned, wraps (spec/00_scope.md R4, R12). -/
abbrev Timestamp := BitVec 32

end Sys2Proof
end

