-- ==== Sys2Proof/Config.lean ====
section
/-! DEFINITION. What an implementation fixes (spec/00_scope.md R4), what the environment chooses (spec/43_capability_calls.md),
and the free values: constants with no body, of which nothing can be proved but what holds of every value. -/

namespace Sys2Proof

/-- The two command ports, one per execution context (spec/30_encoding.md R90; the block's two "modes", R255). -/
inductive Port where
  | app
  | irq
  deriving DecidableEq, Repr, Inhabited

/-- The two private byte spaces (spec/20_memory.md R60). -/
inductive Space where
  | txBuf
  | rxBuf
  deriving DecidableEq, Repr, Inhabited

/-- The six capabilities, in the row order of spec/43_capability_calls.md R210. -/
inductive Capability where
  | startRx
  | abortRx
  | rxRemaining
  | startTx
  | abortTx
  | nowMillis
  deriving DecidableEq, Repr, Inhabited

/-- The result codes of spec/60_exceptions.md R241. -/
inductive Code where
  | ok
  | genericError
  | timeout
  | invalidArgument
  | busy
  | notInitialized
  | notSupported
  deriving DecidableEq, Repr, Inhabited

/-- A transmit run `(off, len)` in `TXBUF` (spec/10_state.md R38, spec/20_memory.md R72). -/
structure Run where
  off : Idx
  len : Idx
  deriving DecidableEq, Repr, Inhabited

/-- A receive batch `(off, len, rem)` in `RXBUF` (spec/10_state.md R38). -/
structure Batch where
  off : Idx
  len : Idx
  rem : Idx
  deriving DecidableEq, Repr, Inhabited

/-- Everything ENV may choose at ONE capability call (spec/43_capability_calls.md R211 to R216, R219: "ENV chooses the
response of every capability call within rules R211 to R217"). A call reads the fields its rule leaves to ENV.
The fields after `sent` are read only where the spec calls ENV's state or answer unspecified (U4, U5, U6). -/
structure EnvChoice where
  /-- the response word of a start or an abort call: `isErr` means failure (R210, U11) -/
  resp : Word := 0
  /-- how many bytes of an aborted run had reached the wire: "some prefix (ENV's choice, possibly empty, possibly all)" (R216) -/
  sent : Nat := 0
  /-- `Cap.rxRemaining()` with no batch armed (R212, U4) -/
  remaining : Word := 0
  /-- `ENV.txRun` where ENV's state is unspecified (R213, R214, R216, U5, U6) -/
  txRun : Option Run := none
  /-- `ENV.pend.TX_COMPLETE` there -/
  txPend : Bool := false
  /-- the bytes that reached the wire there: "what is not known is which bytes reach the wire" (U5) -/
  txBytes : List Byte := []
  /-- `ENV.rxBatch` there, after a failed `Cap.abortRx` only (R213, entry 8) -/
  rxBatch : Option Batch := none
  /-- `ENV.pend.RX_HALF` there -/
  rxHalfPend : Bool := false
  /-- `ENV.pend.RX_COMPLETE` there -/
  rxCompletePend : Bool := false
  /-- `ENV.pend.IDLE_LINE` there -/
  idlePend : Bool := false
  /-- the bytes that arrived there -/
  rxBytes : List Byte := []
  /-- `ENV.now` there: it may have advanced by any amount (R217) -/
  now : Timestamp := 0
  deriving DecidableEq, Repr, Inhabited

/-- The implementation parameters of spec/00_scope.md R4: "Every parameter below is an argument of the model". -/
structure Params where
  /-- `TX_CAP` -/
  txCap : Nat
  /-- `RX_CAP` -/
  rxCap : Nat
  /-- `CFG_TIMEOUT` -/
  timeout : Bool
  deriving DecidableEq, Repr

/-- The constraint column of spec/00_scope.md R4: `2 <= CAP <= 2^23`. -/
abbrev Params.WellFormed (p : Params) : Prop :=
  2 ≤ p.txCap ∧ p.txCap ≤ 2 ^ 23 ∧ 2 ≤ p.rxCap ∧ p.rxCap ≤ 2 ^ 23

/-- `TX_CAP - 2` of the instance that `State.reset` is the reset state of: OPEN (entry 1), any value in range. -/
opaque Config.txCapAboveTwo : Fin 8388607

/-- `RX_CAP - 2` of that instance: OPEN (entry 1). -/
opaque Config.rxCapAboveTwo : Fin 8388607

/-- `CFG_TIMEOUT` of that instance: OPEN (entry 1). -/
opaque Config.cfgTimeout : Bool

/-- The parameters of that instance: any that R4 allows. -/
def Config.params : Params where
  txCap := Config.txCapAboveTwo.val + 2
  rxCap := Config.rxCapAboveTwo.val + 2
  timeout := Config.cfgTimeout

/-- What ENV chooses once the script in State is used up, applied to State's counter (entry 5). -/
opaque Config.freeChoice : Nat → EnvChoice

/-- What a buffer byte that nothing has written holds: "any value" (spec/93_implementation_defined.md U2, entry 3). -/
opaque Config.unwrittenByte : Space → Nat → Byte

end Sys2Proof
end

