-- ==== Sys2Proof/Syntax.lean ====
section
/-! DEFINITION. The twelve operations of spec/30_encoding.md R93, one constructor per row of spec/opcode_table.json.
ENQUEUE's byte sequence is no part of the command word (R91, R97): it stands beside the port. -/

namespace Sys2Proof

/-- A command: an operation with the argument its command word carries (spec/30_encoding.md R92, R93). -/
inductive Instr where
  /-- INIT, `CAPMASK = ARG[5:0]` (R94, R181) -/
  | init (capMask : BitVec 6)
  /-- ENQUEUE, `LEN = ARG` (R120) -/
  | enqueue (len : Idx)
  /-- READ, `MAXLEN = ARG` (R155) -/
  | read (maxLen : Idx)
  /-- FLUSH, `TIMEOUT_MS = ARG` (R185) -/
  | flush (timeoutMs : Idx)
  /-- GETFLAGS (R186) -/
  | getFlags
  /-- CONTINUE (R123) -/
  | cont
  /-- ABORT_TX (R126) -/
  | abortTx
  /-- TEARDOWN (R187) -/
  | teardown
  /-- TX_COMPLETE (R125) -/
  | txComplete
  /-- RX_HALF (R162) -/
  | rxHalf
  /-- RX_COMPLETE (R158) -/
  | rxComplete
  /-- IDLE_LINE (R154) -/
  | idleLine
  deriving DecidableEq, Repr

end Sys2Proof
end

