-- ==== Sys2Proof/Decode.lean ====
section
/-! DEFINITION. The command encoding of spec/30_encoding.md: a decoder that is total on a port and a 32-bit word and rejects by
name (R95, R96), and an encoder from the same table (R91 to R93). Command words have no byte order (spec/20_memory.md R62). -/

namespace Sys2Proof

/-- What decoding a presented word gives (spec/30_encoding.md R95): an operation, or the code the block answers with. -/
inductive Decoded where
  | ok (i : Instr)
  /-- R95 (1): an `OPC` that is none of the twelve, or a word on the port its `PORT` bit does not name -/
  | notSupported
  /-- R95 (2): a bit of `ARG` that R93 gives as 0 is 1 -/
  | invalidArgument
  deriving DecidableEq, Repr

/-- The instruction a decoding gives, if it gives one. -/
def Decoded.instr? : Decoded → Option Instr
  | .ok i => some i
  | .notSupported => none
  | .invalidArgument => none

/-- The port column of spec/30_encoding.md R93. -/
def Instr.port : Instr → Port
  | .init _ => .app
  | .enqueue _ => .app
  | .read _ => .app
  | .flush _ => .app
  | .getFlags => .app
  | .cont => .app
  | .abortTx => .app
  | .teardown => .app
  | .txComplete => .irq
  | .rxHalf => .irq
  | .rxComplete => .irq
  | .idleLine => .irq

/-- How many bytes stand beside the command word: `LEN` for ENQUEUE, none otherwise (spec/30_encoding.md R97). -/
def Instr.srcLength : Instr → Nat
  | .init _ => 0
  | .enqueue len => len.toNat
  | .read _ => 0
  | .flush _ => 0
  | .getFlags => 0
  | .cont => 0
  | .abortTx => 0
  | .teardown => 0
  | .txComplete => 0
  | .rxHalf => 0
  | .rxComplete => 0
  | .idleLine => 0

/-- `OPC = CW[31:24]` (spec/30_encoding.md R91). -/
def opcOf (cw : Word) : BitVec 8 := cw.extractLsb' 24 8

/-- `ARG = CW[23:0]` (spec/30_encoding.md R91). -/
def argOf (cw : Word) : Idx := cw.extractLsb' 0 24

/-- The port that the `PORT` bit, `CW[31]`, names: 0 APP, 1 IRQ (spec/30_encoding.md R91). -/
def portOf (cw : Word) : Port := if cw.getLsbD 31 then .irq else .app

/-- The row of spec/30_encoding.md R93 that an `OPC` selects: the bits of `ARG` that the row gives as 0, and the operation
with its argument assembled as R92 says. -/
def rowOf (opc : BitVec 8) (arg : Idx) : Option (Idx × Instr) :=
  match opc.toNat with
  | 0x01 => some (0xFFFFC0#24, .init (arg.extractLsb' 0 6))
  | 0x02 => some (0#24, .enqueue arg)
  | 0x03 => some (0#24, .read arg)
  | 0x04 => some (0#24, .flush arg)
  | 0x05 => some (0xFFFFFF#24, .getFlags)
  | 0x06 => some (0xFFFFFF#24, .cont)
  | 0x07 => some (0xFFFFFF#24, .abortTx)
  | 0x08 => some (0xFFFFFF#24, .teardown)
  | 0x81 => some (0xFFFFFF#24, .txComplete)
  | 0x82 => some (0xFFFFFF#24, .rxHalf)
  | 0x83 => some (0xFFFFFF#24, .rxComplete)
  | 0x84 => some (0xFFFFFF#24, .idleLine)
  | _ => none

/-- Decoding, in the order of spec/30_encoding.md R95: first `OPC` and port, then the reserved bits of `ARG`. -/
def decode (port : Port) (cw : Word) : Decoded :=
  match rowOf (opcOf cw) (argOf cw) with
  | none => .notSupported
  | some (reserved, i) =>
    if portOf cw ≠ port then .notSupported
    else if argOf cw &&& reserved ≠ 0#24 then .invalidArgument
    else .ok i

/-- The `OPC` column of spec/30_encoding.md R93. -/
def Instr.opc : Instr → BitVec 8
  | .init _ => 0x01#8
  | .enqueue _ => 0x02#8
  | .read _ => 0x03#8
  | .flush _ => 0x04#8
  | .getFlags => 0x05#8
  | .cont => 0x06#8
  | .abortTx => 0x07#8
  | .teardown => 0x08#8
  | .txComplete => 0x81#8
  | .rxHalf => 0x82#8
  | .rxComplete => 0x83#8
  | .idleLine => 0x84#8

/-- The `ARG` column of spec/30_encoding.md R93. -/
def Instr.arg : Instr → Idx
  | .init capMask => capMask.setWidth 24
  | .enqueue len => len
  | .read maxLen => maxLen
  | .flush timeoutMs => timeoutMs
  | .getFlags => 0#24
  | .cont => 0#24
  | .abortTx => 0#24
  | .teardown => 0#24
  | .txComplete => 0#24
  | .rxHalf => 0#24
  | .rxComplete => 0#24
  | .idleLine => 0#24

/-- The command word of an operation: `OPC ++ ARG` (spec/30_encoding.md R91). -/
def encode (i : Instr) : Word := i.opc ++ i.arg

/-- The `match` column of spec/30_encoding.md R93. -/
def Instr.matchBits : Instr → Word
  | .init _ => 0x01000000#32
  | .enqueue _ => 0x02000000#32
  | .read _ => 0x03000000#32
  | .flush _ => 0x04000000#32
  | .getFlags => 0x05000000#32
  | .cont => 0x06000000#32
  | .abortTx => 0x07000000#32
  | .teardown => 0x08000000#32
  | .txComplete => 0x81000000#32
  | .rxHalf => 0x82000000#32
  | .rxComplete => 0x83000000#32
  | .idleLine => 0x84000000#32

/-- The `mask` column of spec/30_encoding.md R93. -/
def Instr.maskBits : Instr → Word
  | .init _ => 0xFFFFFFC0#32
  | .enqueue _ => 0xFF000000#32
  | .read _ => 0xFF000000#32
  | .flush _ => 0xFF000000#32
  | .getFlags => 0xFFFFFFFF#32
  | .cont => 0xFFFFFFFF#32
  | .abortTx => 0xFFFFFFFF#32
  | .teardown => 0xFFFFFFFF#32
  | .txComplete => 0xFFFFFFFF#32
  | .rxHalf => 0xFFFFFFFF#32
  | .rxComplete => 0xFFFFFFFF#32
  | .idleLine => 0xFFFFFFFF#32

/-- The bytes that stand beside a command word where the table gives them none: zeros, as many as the word asks for
(`LEN` for ENQUEUE, entry 18). -/
def zeroSrc (cw : Word) : List Byte :=
  match decode .app cw with
  | .ok i => List.replicate i.srcLength 0#8
  | .notSupported => []
  | .invalidArgument => []

/-- The decoder on a row of spec/opcode_table.json: the 32 bits `w` as one command word on the port its `PORT` bit names
(the table's bit numbering is the word's, spec/00_scope.md R7). A word of more than 32 bits is no command (R91). -/
def decodeTableWord (nbits w : Nat) : Option Instr :=
  if nbits ≤ 32 ∧ w < 2 ^ 32 then (decode (portOf (BitVec.ofNat 32 w)) (BitVec.ofNat 32 w)).instr? else none

end Sys2Proof
end

