-- ==== Sys2Proof/WellFormed.lean ====
section
/-! DEFINITION. What may be presented at a command port. The operand widths of an operation are in `Instr`'s types; what is left
to check is that the operation stands on its own port and that the byte sequence beside it has the length it asks for. -/

namespace Sys2Proof

/-- A command as it stands at a port: the port, the operation and the byte sequence beside it (spec/30_encoding.md R90, R97). -/
structure Command where
  port : Port
  instr : Instr
  src : List Byte
  deriving DecidableEq, Repr

/-- spec/30_encoding.md R96: each operation only on its own port. -/
abbrev Command.OnItsPort (c : Command) : Prop := c.instr.port = c.port

/-- spec/30_encoding.md R97: "a byte sequence `src` of exactly `LEN` bytes"; no other operation takes one. -/
abbrev Command.HasItsBytes (c : Command) : Prop := c.src.length = c.instr.srcLength

/-- A command that the spec allows to be presented. -/
abbrev Command.WellFormed (c : Command) : Prop := c.OnItsPort ∧ c.HasItsBytes

end Sys2Proof
end

