-- ==== Sys2Proof/Machine/State.lean ====
section
/-! DEFINITION. The state of one block instance (spec/10_state.md R20, R36 to R38), the signals at its ports, the schedule and
ENV's choices as plain data, the reasons a run of the model stops, and the state after a hardware reset (R43). -/

namespace Sys2Proof.Machine

/-- A byte memory: (address, byte) cells with strictly rising addresses. An address with no cell was never written and has no
value of its own: the read operation answers a free value for it (entry 3), so no cell repeats an unlisted value. -/
abbrev Memory := List Host.Cell

/-- The labels an ENQUEUE may stand at between two steps (spec/10_state.md R36; E1 takes the command, entry 16). -/
inductive EnqueueLabel where
  | e2
  | e3
  | e4
  deriving DecidableEq, Repr

/-- ENQUEUE's locals: "`len`, `src`, `t` (tail snapshot), `n` (bytes accepted)" (spec/10_state.md R37). -/
structure EnqueueLocals where
  len : Idx
  src : List Byte
  t : Idx
  n : Idx
  deriving DecidableEq, Repr

/-- `APPSEQ`: `Idle`, or an operation, the label it stands at and its locals so far (spec/10_state.md R36, R37). -/
inductive AppSeq where
  | idle
  | enqueue (label : EnqueueLabel) (v : EnqueueLocals)
  | readR2 (maxLen : Idx)
  | readR3 (maxLen h n : Idx)
  | readR4 (maxLen h n : Idx) (dst : List Byte)
  | flushF2 (timeout : Idx)
  | flushF3 (timeout : Idx) (t0 : Timestamp)
  deriving DecidableEq, Repr

/-- The four interrupt sources (spec/60_exceptions.md R246). -/
inductive Event where
  | txComplete
  | rxHalf
  | rxComplete
  | idleLine
  deriving DecidableEq, Repr

/-- `ENV.pend`: one pending bit per source (spec/60_exceptions.md R246). -/
structure Pend where
  txComplete : Bool
  rxHalf : Bool
  rxComplete : Bool
  idleLine : Bool
  deriving DecidableEq, Repr

/-- ENV's state as far as the block observes it, and its two ghost streams (spec/10_state.md R38). -/
structure Env where
  txRun : Option Run
  rxBatch : Option Batch
  pend : Pend
  now : Timestamp
  txWire : List Byte
  rxLine : List Byte
  deriving DecidableEq, Repr

/-- ENV's actions (spec/43_capability_calls.md R219). -/
inductive EnvAction where
  | rx (b : Byte)
  | txdone
  | idle
  | half
  | tick (k : Nat)
  deriving DecidableEq, Repr

/-- One move of one agent, as the schedule in State names it (entry 4). -/
inductive Input where
  /-- APP presents a command word, with the bytes beside it (spec/30_encoding.md R90, R97) -/
  | app (cw : Word) (src : List Byte)
  /-- APP takes the next step of the operation in progress (spec/60_exceptions.md R251) -/
  | appStep
  /-- the hosting firmware issues a command word on the IRQ port (spec/30_encoding.md R90) -/
  | irq (cw : Word)
  /-- the IRQ agent takes a pending event (spec/60_exceptions.md R246) -/
  | take (e : Event)
  /-- ENV acts (spec/43_capability_calls.md R219) -/
  | env (a : EnvAction)
  /-- the hardware reset (spec/70_reset_and_hazards.md R280, entry 19) -/
  | reset
  deriving DecidableEq, Repr

/-- What a command gave on its port: the result word and, for READ, `dst` (spec/30_encoding.md R97, R98). -/
structure Result where
  port : Port
  word : Word
  dst : List Byte
  deriving DecidableEq, Repr

/-- One request on the capability port and its response (spec/43_capability_calls.md R210). -/
structure CapCall where
  cap : Capability
  off : Idx
  len : Idx
  resp : Word
  deriving DecidableEq, Repr

/-- The state of the model: the parameters of the instance, the block's architectural state (spec/10_state.md R20), the
environment it observes (R38), and the model's own fields (`appSrc` and what follows it). -/
structure State where
  /-- `TX_CAP`, `RX_CAP`, `CFG_TIMEOUT`: arguments of the model that no step changes (spec/00_scope.md R4, entry 1) -/
  params : Params
  /-- `TXBUF` (R22) -/
  txBuf : Memory
  /-- `RXBUF` (R23) -/
  rxBuf : Memory
  /-- `TXHEAD` (R24) -/
  txHead : Idx
  /-- `TXTAIL` (R25) -/
  txTail : Idx
  /-- `TXRUN` (R26) -/
  txRun : Bool
  /-- `TXLEN` (R26) -/
  txLen : Idx
  /-- `RXHEAD` (R28) -/
  rxHead : Idx
  /-- `RXTAIL` (R29) -/
  rxTail : Idx
  /-- `RXORG` (R30) -/
  rxOrg : Idx
  /-- `RXSIZE` (R30) -/
  rxSize : Idx
  /-- `INITED` (R31) -/
  inited : Bool
  /-- `CAPS` (R32) -/
  caps : BitVec 6
  /-- `FLAGS` (R33) -/
  flags : BitVec 8
  /-- `APPSEQ` (R36) -/
  appSeq : AppSeq
  /-- ENV (R38) -/
  env : Env
  /-- the byte sequence beside the command word on the APP port (spec/30_encoding.md R97, entry 13) -/
  appSrc : List Byte
  /-- every result given so far, newest first (entry 15) -/
  out : List Result
  /-- every capability call made so far, newest first (entry 15) -/
  calls : List CapCall
  /-- which agent moves next (entry 4) -/
  inputs : List Input
  /-- what ENV chooses at the next capability calls (entry 5) -/
  script : List EnvChoice
  /-- the counter the free choices are applied to (entry 5) -/
  freeCtr : Nat
  deriving DecidableEq, Repr

/-- Why a run of the model stops. The block itself never traps (spec/60_exceptions.md R240): each reason is a case in which the
spec gives no step. All are safe: the model stops where the spec says nothing. -/
inductive Fault where
  /-- RefreshAction (IDLE_LINE, RX_HALF, RX_COMPLETE, READ R1): ENV answered `Cap.rxRemaining()` with more than `RXSIZE`, which
  breaks its contract (spec/41_rx_engine.md R161, U3). Safe. -/
  | rxRemainingOutOfRange
  /-- ENQUEUE E2, READ R3, ENV's `rx` and `txdone`: an access that ends past its buffer (spec/00_scope.md R8,
  spec/20_memory.md R60, entry 12). Only outside the invariant or after a failed abort (U5); `Cap.abortTx` does not raise it
  (entry 23). Safe. -/
  | bufferRange
  /-- ENQUEUE E1: the byte sequence beside the command has not exactly `LEN` bytes (spec/30_encoding.md R97). Safe. -/
  | srcLength
  /-- any APP command presented while `APPSEQ` stands in an operation: it "has no step (it cannot be presented)"
  (spec/70_reset_and_hazards.md R284). Safe. -/
  | appBusy
  /-- the schedule names an APP step while `APPSEQ = Idle` (spec/10_state.md R36). Safe. -/
  | appIdle
  /-- the schedule lets the IRQ agent take an event whose bit is not set (spec/60_exceptions.md R246). Safe. -/
  | eventNotPending
  /-- the schedule names an ENV action that is not enabled (spec/43_capability_calls.md R219). Safe. -/
  | actionNotEnabled
  deriving DecidableEq, Repr

/-- Why the model gives an instruction no meaning. -/
inductive Refusal where
  /-- raised by an arm of `exec` whose instruction has no meaning yet. Safe. -/
  | notModelled (mnemonic : String)
  deriving DecidableEq, Repr

/-- No event pending (spec/10_state.md R43). -/
def Pend.none : Pend := ⟨false, false, false, false⟩

/-- ENV after a hardware reset (spec/10_state.md R43): no run, no batch, no event; `ENV.now` is unspecified there and 0 here
(entry 2); the ghost streams are empty. -/
def Env.reset : Env where
  txRun := Option.none
  rxBatch := Option.none
  pend := Pend.none
  now := 0#32
  txWire := []
  rxLine := []

/-- An instance with parameters `p` after a hardware reset (spec/10_state.md R43, spec/70_reset_and_hazards.md R280):
`INITED = 0`, `APPSEQ = Idle`, ENV without run, batch or event. What R43 calls unspecified has the value 0 (entry 2), and no
buffer byte is written (entry 3). -/
def State.resetWith (p : Params) : State where
  params := p
  txBuf := []
  rxBuf := []
  txHead := 0#24
  txTail := 0#24
  txRun := false
  txLen := 0#24
  rxHead := 0#24
  rxTail := 0#24
  rxOrg := 0#24
  rxSize := 0#24
  inited := false
  caps := 0#6
  flags := 0#8
  appSeq := .idle
  env := Env.reset
  appSrc := []
  out := []
  calls := []
  inputs := []
  script := []
  freeCtr := 0

/-- The machine right after reset, with the parameters OPEN (entry 1). -/
def State.reset : State := State.resetWith Config.params

end Sys2Proof.Machine
end

