-- ==== Sys2Proof/Machine/Operands.lean ====
section
/-! DEFINITION. The arithmetic of the block: result codes (spec/60_exceptions.md R241), ring arithmetic and the two-segment
split on natural numbers (spec/00_scope.md R9 to R11), timestamps (R12), the operands of INIT and of the capability port. -/

namespace Sys2Proof.Machine

/-- The number of a result code as a result word (spec/60_exceptions.md R241; two's complement, spec/30_encoding.md R98). -/
def codeWord : Code → Word
  | .ok => 0x00000000#32
  | .genericError => 0xFFFFFFFF#32
  | .timeout => 0xFFFFFFFE#32
  | .invalidArgument => 0xFFFFFFFD#32
  | .busy => 0xFFFFFFFC#32
  | .notInitialized => 0xFFFFFFFB#32
  | .notSupported => 0xFFFFFFFA#32

/-- `isErr(v)`: the signed result word is negative (spec/00_scope.md R8). -/
def isErr (v : Word) : Bool := v.getLsbD 31

/-- A byte count as a result word (spec/30_encoding.md R98). -/
def countWord (n : Idx) : Word := n.setWidth 32

/-- A natural number below `2^24` as the contents of an index register. -/
def idxOf (n : Nat) : Idx := BitVec.ofNat 24 n

/-- `add(a, k, C) = (a + k) mod C` (spec/00_scope.md R9). -/
def ringAdd (a k c : Nat) : Nat := (a + k) % c

/-- `dist(a, b, C)`: `b - a` when `b >= a` and `C - a + b` when `b < a` (spec/00_scope.md R9; for `a, b < C`, entry 21). -/
def ringDist (a b c : Nat) : Nat := if a ≤ b then b - a else c - a + b

/-- `txUsed(h, t)`: bytes queued (spec/00_scope.md R10). -/
def txUsed (p : Params) (h t : Idx) : Nat := ringDist h.toNat t.toNat p.txCap

/-- `txFree(h, t)`: bytes that still fit (spec/00_scope.md R10). -/
def txFree (p : Params) (h t : Idx) : Nat := p.txCap - 1 - txUsed p h t

/-- `rxAvail(h, t)`: bytes readable (spec/00_scope.md R10). -/
def rxAvail (p : Params) (h t : Idx) : Nat := ringDist h.toNat t.toNat p.rxCap

/-- `runLen(h, t)`: bounded by the tail or by the physical end of the buffer (spec/00_scope.md R10). -/
def runLen (p : Params) (h t : Idx) : Nat :=
  if h.toNat < t.toNat then t.toNat - h.toNat
  else if t.toNat < h.toNat then p.txCap - h.toNat
  else 0

/-- `seg1(s, n, C)` (spec/00_scope.md R11). -/
def seg1 (s n c : Nat) : Nat := min n (c - s)

/-- `seg2(s, n, C)` (spec/00_scope.md R11). -/
def seg2 (s n c : Nat) : Nat := n - seg1 s n c

/-- `elapsed(t0, now) = (now - t0) mod 2^32` (spec/00_scope.md R12). -/
def elapsed (t0 now : Timestamp) : Nat :=
  if t0.toNat ≤ now.toNat then now.toNat - t0.toNat else 2 ^ 32 - t0.toNat + now.toNat

/-- The mask of the mandatory capabilities: `0x1F`, with `nowMillis` when `CFG_TIMEOUT = 1`
(spec/42_device_lifecycle.md R181, R182). -/
def mandatory (p : Params) : BitVec 6 := if p.timeout then 0x3F#6 else 0x1F#6

/-- `(CAPMASK & need) = need` (spec/42_device_lifecycle.md R181). -/
def suppliesMandatory (p : Params) (capMask : BitVec 6) : Bool := capMask &&& mandatory p == mandatory p

/-- `CAPID`, the row number of a capability (spec/43_capability_calls.md R210; the bit of `CAPS`, spec/10_state.md R32). -/
def capId : Capability → BitVec 3
  | .startRx => 0#3
  | .abortRx => 1#3
  | .rxRemaining => 2#3
  | .startTx => 3#3
  | .abortTx => 4#3
  | .nowMillis => 5#3

end Sys2Proof.Machine
end

