-- ==== Sys2Proof/Machine/Flags.lean ====
section
/-! DEFINITION. The FLAGS register's one flag, `SHORT` (spec/10_state.md R33). -/

namespace Sys2Proof.Machine

/-- `FLAGS.SHORT <- b`: bit 0; bits 7:1 keep their value (spec/10_state.md R33). -/
def setShort (b : Bool) (flags : BitVec 8) : BitVec 8 :=
  if b then flags ||| 0x01#8 else flags &&& 0xFE#8

/-- `FLAGS.SHORT` (spec/10_state.md R33). -/
def shortOf (flags : BitVec 8) : Bool := flags.getLsbD 0

/-- `SHORT` for a count `n` where `asked` bytes were asked for: "1 when the count is smaller than the count asked for"
(spec/10_state.md R33). -/
def isShort (n asked : Idx) : Bool := decide (n.toNat < asked.toNat)

/-- The result of GETFLAGS: `zext_32(FLAGS)` (spec/42_device_lifecycle.md R186). -/
def flagsWord (flags : BitVec 8) : Word := flags.setWidth 32

end Sys2Proof.Machine
end

