-- ==== Sys2Proof/Machine/Ops.lean ====
section
/-! DEFINITION. The shared operations over the buffers, the ports and the pending events: reading and writing bytes
(spec/00_scope.md R8, spec/20_memory.md R64, R70, R71), giving a result (R8 `return`), which stands in place of taking an exception
(spec/60_exceptions.md R240), and taking an event, which stands in place of trap entry (R246, R252). -/

namespace Sys2Proof.Machine

/-- The capacity of a space (spec/20_memory.md R60). -/
def capacity (p : Params) : Space → Nat
  | .txBuf => p.txCap
  | .rxBuf => p.rxCap

/-- The byte a memory holds at an address, if one was ever written there. -/
def Memory.byte? : Memory → Nat → Option Byte
  | [], _ => none
  | (k, b) :: rest, a => if a = k then some b else Memory.byte? rest a

/-- Write one byte, keeping the addresses strictly rising. -/
def Memory.store : Memory → Nat → Byte → Memory
  | [], a, b => [(a, b)]
  | (k, c) :: rest, a, b =>
    if a < k then (a, b) :: (k, c) :: rest
    else if a = k then (a, b) :: rest
    else (k, c) :: Memory.store rest a b

/-- The canonical form of the memory of a space with `cap` bytes: addresses strictly rising and all inside the space. -/
abbrev Memory.wf (cap : Nat) (m : Memory) : Prop :=
  m.Pairwise (fun x y => x.1 < y.1) ∧ ∀ cell ∈ m, cell.1 < cap

/-- One byte of a space: the byte written there, or a free value where nothing has been written (U2, entry 3). -/
def readByte (sp : Space) (m : Memory) (a : Nat) : Byte := (m.byte? a).getD (Config.unwrittenByte sp a)

/-- `MemRead(S, a, n)`: `n` one-byte accesses in ascending address order (spec/00_scope.md R8, spec/20_memory.md R64). -/
def memRead (sp : Space) (m : Memory) : Nat → Nat → List Byte
  | _, 0 => []
  | a, n + 1 => readByte sp m a :: memRead sp m (a + 1) n

/-- `MemWrite(S, a, n, v)` of all bytes of `v`, in ascending address order (spec/00_scope.md R8, spec/20_memory.md R64). -/
def memWrite (m : Memory) : Nat → List Byte → Memory
  | _, [] => m
  | a, b :: bs => memWrite (m.store a b) (a + 1) bs

/-- Whether the two segments of a ring access from `s` for `n` bytes both keep `a + n <= ` the capacity, as
`MemRead` and `MemWrite` require (spec/00_scope.md R8, entry 12). -/
def ringInRange (s n c : Nat) : Bool := s + seg1 s n c ≤ c && seg2 s n c ≤ c

/-- `MemRead(S, s, k1) ++ MemRead(S, 0, k2)`: the copy-out of spec/20_memory.md R71. -/
def ringRead (sp : Space) (m : Memory) (s n c : Nat) : List Byte :=
  memRead sp m s (seg1 s n c) ++ memRead sp m 0 (seg2 s n c)

/-- `MemWrite(S, s, k1, v[0 .. k1-1]); MemWrite(S, 0, k2, v[k1 ..])`: the copy-in of spec/20_memory.md R70. -/
def ringWrite (m : Memory) (s c : Nat) (v : List Byte) : Memory :=
  memWrite (memWrite m s (v.take (seg1 s v.length c))) 0 (v.drop (seg1 s v.length c))

/-- `return v` of an APP operation, with READ's `dst`: the result word on the APP port, and `APPSEQ <- Idle`
(spec/00_scope.md R8, spec/10_state.md R36, spec/30_encoding.md R90, R97). -/
def State.answerApp (v : Word) (dst : List Byte) (s : State) : State :=
  { s with appSeq := .idle, out := ⟨.app, v, dst⟩ :: s.out }

/-- `return v` of an IRQ operation: the result word on the IRQ port; `APPSEQ` is neither read nor written
(spec/10_state.md R36, spec/30_encoding.md R90, spec/60_exceptions.md R253). -/
def State.answerIrq (v : Word) (s : State) : State :=
  { s with out := ⟨.irq, v, []⟩ :: s.out }

/-- `return v` on a port. -/
def State.answer (port : Port) (v : Word) (s : State) : State :=
  match port with
  | .app => s.answerApp v []
  | .irq => s.answerIrq v

/-- `goto <label>`, or falling through to the next label: `APPSEQ` keeps the operation's place and locals
(spec/00_scope.md R8, spec/10_state.md R36). -/
def State.standAt (q : AppSeq) (s : State) : State := { s with appSeq := q }

/-- Whether the pending bit of an event is set (spec/60_exceptions.md R246). -/
def Pend.get (p : Pend) : Event → Bool
  | .txComplete => p.txComplete
  | .rxHalf => p.rxHalf
  | .rxComplete => p.rxComplete
  | .idleLine => p.idleLine

/-- Write the pending bit of an event (spec/60_exceptions.md R246). -/
def Pend.put (p : Pend) (v : Bool) : Event → Pend
  | .txComplete => { p with txComplete := v }
  | .rxHalf => { p with rxHalf := v }
  | .rxComplete => { p with rxComplete := v }
  | .idleLine => { p with idleLine := v }

/-- The command of an event: "one per IRQ-port operation" (spec/60_exceptions.md R246). -/
def Event.instr : Event → Instr
  | .txComplete => .txComplete
  | .rxHalf => .rxHalf
  | .rxComplete => .rxComplete
  | .idleLine => .idleLine

/-- Clear the pending bit of an event, the first half of taking it (spec/60_exceptions.md R246). -/
def State.clearPend (e : Event) (s : State) : State :=
  { s with env := { s.env with pend := s.env.pend.put false e } }

/-- The hardware reset of an instance (spec/10_state.md R43, spec/70_reset_and_hazards.md R280): the state after reset for its
parameters. What outside the instance still has in store (schedule, ENV's choices) is not touched (entry 19). -/
def hardwareReset (s : State) : State :=
  { State.resetWith s.params with inputs := s.inputs, script := s.script, freeCtr := s.freeCtr }

/-- An APP command begins only when `APPSEQ = Idle` (spec/10_state.md R36, spec/70_reset_and_hazards.md R284). -/
def whenIdle (s : State) (k : Host.Outcome State Fault Refusal) : Host.Outcome State Fault Refusal :=
  match s.appSeq with
  | .idle => k
  | .enqueue _ _ => .fault .appBusy
  | .readR2 _ => .fault .appBusy
  | .readR3 _ _ _ => .fault .appBusy
  | .readR4 _ _ _ _ => .fault .appBusy
  | .flushF2 _ => .fault .appBusy
  | .flushF3 _ _ => .fault .appBusy

/-- `if INITED = 0: return NotInitialized` on the port of the operation (spec/60_exceptions.md R244). -/
def whenInited (port : Port) (s : State) (k : Host.Outcome State Fault Refusal) : Host.Outcome State Fault Refusal :=
  if s.inited then k else .next (s.answer port (codeWord .notInitialized))

end Sys2Proof.Machine
end

