-- ==== Sys2Proof/Machine/Capability.lean ====
section
/-! DEFINITION. The six capability calls and what each does to ENV (spec/43_capability_calls.md R210 to R217). A call is synchronous
(R210): it answers a response word and the state with ENV moved. What a rule leaves to ENV is read from ENV's next choice. -/

namespace Sys2Proof.Machine

/-- ENV's choice for the next call: the script's, or a free value once the script is used up (entry 5). -/
def State.choice (s : State) : EnvChoice :=
  match s.script with
  | [] => Config.freeChoice s.freeCtr
  | c :: _ => c

/-- A call that read ENV's choice uses it up (entry 5). -/
def State.useChoice (s : State) : State := { s with script := s.script.tail, freeCtr := s.freeCtr + 1 }

/-- Record a request on the capability port and its response (spec/43_capability_calls.md R210, entry 15). -/
def State.logCall (cap : Capability) (off len : Idx) (resp : Word) (s : State) : State :=
  { s with calls := ⟨cap, off, len, resp⟩ :: s.calls }

/-- "ENV's state is unspecified" (R213, R216, U5): every part of it is a free value; what has reached the wire or the line stays
there, so the two ghost streams only grow (entry 8). -/
def Env.unspecified (c : EnvChoice) (e : Env) : Env where
  txRun := c.txRun
  rxBatch := c.rxBatch
  pend := ⟨c.txPend, c.rxHalfPend, c.rxCompletePend, c.idlePend⟩
  now := c.now
  txWire := e.txWire ++ c.txBytes
  rxLine := e.rxLine ++ c.rxBytes

/-- ENV's state unspecified while the block stays Initialised (R214, R216, U5, U6): all of it but the armed batch, which still is
`(RXORG, RXSIZE, rem)` since `Cap.abortRx` was not called (spec/41_rx_engine.md R151), and the line (entry 8). -/
def Env.unspecifiedButBatch (c : EnvChoice) (e : Env) : Env :=
  { e.unspecified c with rxBatch := e.rxBatch, rxLine := e.rxLine }

/-- `Cap.startRx(off, len)` (R211): on a non-negative response the batch is armed with `rem = len`, on a negative one ENV is
unchanged. -/
def capStartRx (off len : Idx) (s : State) : Word × State :=
  let resp := s.choice.resp
  let env := if isErr resp then s.env else { s.env with rxBatch := some ⟨off, len, len⟩ }
  (resp, ({ s with env := env }.useChoice).logCall .startRx off len resp)

/-- `Cap.abortRx()` (R213): on a non-negative response no batch is armed and the three receive events are cleared; on a negative
one ENV's state is unspecified (U5). -/
def capAbortRx (s : State) : Word × State :=
  let resp := s.choice.resp
  let env :=
    if isErr resp then s.env.unspecified s.choice
    else { s.env with
      rxBatch := none
      pend := { s.env.pend with rxHalf := false, rxComplete := false, idleLine := false } }
  (resp, ({ s with env := env }.useChoice).logCall .abortRx 0#24 0#24 resp)

/-- `Cap.rxRemaining()` (R212): `rem` of the armed batch, with no side effect on ENV; with no batch the result is unspecified
(U4, entry 10). -/
def capRxRemaining (s : State) : Word × State :=
  match s.env.rxBatch with
  | some b => (countWord b.rem, s.logCall .rxRemaining 0#24 0#24 (countWord b.rem))
  | none => (s.choice.remaining, s.useChoice.logCall .rxRemaining 0#24 0#24 s.choice.remaining)

/-- ENV at a `Cap.startTx(off, len)` that it answers with its choice `c` (R214): a run in flight on a non-negative response,
unchanged on a negative one, unspecified when a run was already in flight (U6, entries 8, 9). -/
def Env.afterStartTx (off len : Idx) (c : EnvChoice) (e : Env) : Env :=
  match e.txRun with
  | some _ => e.unspecifiedButBatch c
  | none => if isErr c.resp then e else { e with txRun := some ⟨off, len⟩ }

/-- `Cap.startTx(off, len)` (R214). -/
def capStartTx (off len : Idx) (s : State) : Word × State :=
  let resp := s.choice.resp
  (resp, ({ s with env := s.env.afterStartTx off len s.choice }.useChoice).logCall .startTx off len resp)

/-- The bytes of the run in flight, `TXBUF[off .. off+len-1]` (R214); none with no run in flight. DESIGN CHOICE, safe (entry 23): of a
run that ENV was left with by U5 or U6 and that ends past `TXBUF`, which spec/00_scope.md R8 gives no reading, the bytes past the
end are free values (`Config.unwrittenByte`). -/
def runBytes (s : State) : List Byte :=
  match s.env.txRun with
  | some r => memRead .txBuf s.txBuf r.off.toNat r.len.toNat
  | none => []

/-- The response of `Cap.abortTx()` (R216): ENV's choice; "with no run in flight it ... returns a non-negative response"
(entry 6). -/
def abortTxResponse (s : State) : Word :=
  match s.env.txRun with
  | some _ => s.choice.resp
  | none => if isErr s.choice.resp then codeWord .ok else s.choice.resp

/-- `Cap.abortTx()` (R216): on a non-negative response some prefix of the run in flight has reached the wire, no run is in flight
and its completion event is cleared (also one already pending, R246, entry 7); on a negative one ENV's state is unspecified (U5).
DESIGN CHOICE, safe (entry 23): an abort does not stop on a run that ends past `TXBUF`, as `txdone` does; it may put free bytes on
the wire. -/
def capAbortTx (s : State) : Word × State :=
  let resp := abortTxResponse s
  let env :=
    if isErr resp then s.env.unspecifiedButBatch s.choice
    else { s.env with
      txRun := none
      pend := { s.env.pend with txComplete := false }
      txWire := s.env.txWire ++ (runBytes s).take s.choice.sent }
  (resp, ({ s with env := env }.useChoice).logCall .abortTx 0#24 0#24 resp)

/-- `Cap.nowMillis()` (R217): `ENV.now`, with no side effect. -/
def capNowMillis (s : State) : Timestamp × State :=
  (s.env.now, s.logCall .nowMillis 0#24 0#24 s.env.now)

end Sys2Proof.Machine
end

