-- ==== Sys2Proof/Machine/Environment.lean ====
section
/-! DEFINITION. ENV's own actions (spec/43_capability_calls.md R211, R215, R218, R219), each one indivisible step. -/

namespace Sys2Proof.Machine

/-- A byte arrives while `rem > 0` of the batch `b` (R211): first `RXBUF[off + (len - rem)] <- byte`, then `rem <- rem - 1`, then
the byte is appended to `ENV.rxLine`; if `rem` became 0, `ENV.pend.RX_COMPLETE <- 1`. DESIGN CHOICE, unsafe (entry 24): for a batch
with `rem > len`, against R212, that only a failed `Cap.abortRx` leaves, `len - rem` stops at 0 and the slot is `RXBUF[off]`. -/
def storeArrival (b : Batch) (byte : Byte) (s : State) : State :=
  { s with
    rxBuf := s.rxBuf.store (b.off.toNat + (b.len.toNat - b.rem.toNat)) byte
    env := { s.env with
      rxBatch := some { b with rem := b.rem - 1#24 }
      rxLine := s.env.rxLine ++ [byte]
      pend := if b.rem = 1#24 then s.env.pend.put true .rxComplete else s.env.pend } }

/-- `rx b` (R211, R219): store and count down, or drop the byte when no batch is armed or `rem = 0`. The slot checked is the one that
`storeArrival` writes, also for a batch with `rem > len` (DESIGN CHOICE, unsafe, entry 24). -/
def envRx (byte : Byte) (s : State) : Host.Outcome State Fault Refusal :=
  match s.env.rxBatch with
  | none => .next s
  | some b =>
    if b.rem = 0#24 then .next s
    else if b.off.toNat + (b.len.toNat - b.rem.toNat) < s.params.rxCap then .next (storeArrival b byte s)
    else .fault .bufferRange

/-- ENV completes the run `r` (R215): its bytes go to `ENV.txWire`, `ENV.txRun <- none`, `ENV.pend.TX_COMPLETE <- 1`. -/
def completeRun (r : Run) (s : State) : State :=
  { s with env := { s.env with
      txWire := s.env.txWire ++ memRead .txBuf s.txBuf r.off.toNat r.len.toNat
      txRun := none
      pend := s.env.pend.put true .txComplete } }

/-- `txdone`, enabled when a run is in flight (R215, R219). -/
def envTxDone (s : State) : Host.Outcome State Fault Refusal :=
  match s.env.txRun with
  | none => .fault .actionNotEnabled
  | some r =>
    if r.off.toNat + r.len.toNat ≤ s.params.txCap then .next (completeRun r s) else .fault .bufferRange

/-- `idle`, always enabled: `ENV.pend.IDLE_LINE <- 1` (R218, R219). -/
def envIdle (s : State) : State := { s with env := { s.env with pend := s.env.pend.put true .idleLine } }

/-- `half`, enabled while a batch is armed: `ENV.pend.RX_HALF <- 1` (R218, R219). -/
def envHalf (s : State) : Host.Outcome State Fault Refusal :=
  match s.env.rxBatch with
  | none => .fault .actionNotEnabled
  | some _ => .next { s with env := { s.env with pend := s.env.pend.put true .rxHalf } }

/-- `tick k`: `ENV.now <- (ENV.now + k) mod 2^32` (R217, R219). -/
def envTick (k : Nat) (s : State) : State :=
  { s with env := { s.env with now := BitVec.ofNat 32 (s.env.now.toNat + k) } }

/-- One ENV action (R219). -/
def envAct (a : EnvAction) (s : State) : Host.Outcome State Fault Refusal :=
  match a with
  | .rx b => envRx b s
  | .txdone => envTxDone s
  | .idle => .next (envIdle s)
  | .half => envHalf s
  | .tick k => .next (envTick k s)

end Sys2Proof.Machine
end

