-- ==== Sys2Proof/Machine/Transmit.lean ====
section
/-! DEFINITION. The transmit ring engine (spec/40_tx_engine.md): ENQUEUE, CONTINUE, TX_COMPLETE, ABORT_TX and the actions they share. -/

namespace Sys2Proof.Machine

/-- Enter Running: `TXLEN <- L`, then `TXRUN <- 1` (spec/20_memory.md R68). -/
def State.enterRunning (len : Idx) (s : State) : State := { { s with txLen := len } with txRun := true }

/-- Leave Running: `TXRUN <- 0`, then `TXLEN <- 0` (spec/20_memory.md R68). -/
def State.leaveRunning (s : State) : State := { { s with txRun := false } with txLen := 0#24 }

/-- Submit (spec/40_tx_engine.md R124): the state is written before the call and undone on failure; any non-negative response
counts as success and gives `Ok`. -/
def submit (h len : Idx) (s : State) : Word × State :=
  let call := capStartTx h len (s.enterRunning len)
  if isErr call.1 then (call.1, call.2.leaveRunning) else (codeWord .ok, call.2)

/-- ContinueAction (spec/40_tx_engine.md R123): a no-op when Running or when nothing is queued, else Submit of the longest
contiguous run from the head. -/
def continueAction (s : State) : Word × State :=
  if s.txRun then (codeWord .ok, s)
  else if s.txHead = s.txTail then (codeWord .ok, s)
  else submit s.txHead (idxOf (runLen s.params s.txHead s.txTail)) s

/-- ENQUEUE, step E1 (spec/40_tx_engine.md R120): admission and snapshot. -/
def enqueueE1 (len : Idx) (s : State) : Host.Outcome State Fault Refusal :=
  let n := min len.toNat (txFree s.params s.txHead s.txTail)
  if s.appSrc.length ≠ len.toNat then .fault .srcLength
  else if n = 0 then
    .next ({ s with flags := setShort (decide (0 < len.toNat)) s.flags }.answerApp (codeWord .ok) [])
  else .next (s.standAt (.enqueue .e2 ⟨len, s.appSrc, s.txTail, idxOf n⟩))

/-- ENQUEUE, step E2 (spec/40_tx_engine.md R121): copy-in of `src[0 .. n-1]` from the tail snapshot on. -/
def enqueueE2 (v : EnqueueLocals) (s : State) : Host.Outcome State Fault Refusal :=
  if ringInRange v.t.toNat (v.src.take v.n.toNat).length s.params.txCap then
    .next ({ s with txBuf := ringWrite s.txBuf v.t.toNat s.params.txCap (v.src.take v.n.toNat) }.standAt (.enqueue .e3 v))
  else .fault .bufferRange

/-- ENQUEUE, step E3 (spec/40_tx_engine.md R121): publish, `TXTAIL <- add(t, n, TX_CAP)`. -/
def enqueueE3 (v : EnqueueLocals) (s : State) : State :=
  { s with txTail := idxOf (ringAdd v.t.toNat v.n.toNat s.params.txCap) }.standAt (.enqueue .e4 v)

/-- The tail that E4 leaves after a failed start (spec/40_tx_engine.md R122): the snapshot `t` while it is still in the queued
region, else the head. -/
def rolledBackTail (p : Params) (head t tail : Idx) : Idx :=
  if ringDist head.toNat t.toNat p.txCap ≤ ringDist head.toNat tail.toNat p.txCap then t else head

/-- ENQUEUE, step E4 (spec/40_tx_engine.md R122): kick, roll back on a failed start, result. -/
def enqueueE4 (v : EnqueueLocals) (s : State) : State :=
  let act := continueAction s
  if isErr act.1 then
    { act.2 with txTail := rolledBackTail act.2.params act.2.txHead v.t act.2.txTail }.answerApp act.1 []
  else { act.2 with flags := setShort (isShort v.n v.len) act.2.flags }.answerApp (countWord v.n) []

/-- ENQUEUE (spec/40_tx_engine.md R120 to R122): the step at which APP stands in it, E1 from `Idle`. -/
def execEnqueue (len : Idx) (s : State) : Host.Outcome State Fault Refusal :=
  match s.appSeq with
  | .idle => whenInited .app s (enqueueE1 len s)
  | .enqueue .e2 v => enqueueE2 v s
  | .enqueue .e3 v => .next (enqueueE3 v s)
  | .enqueue .e4 v => .next (enqueueE4 v s)
  | .readR2 _ => .fault .appBusy
  | .readR3 _ _ _ => .fault .appBusy
  | .readR4 _ _ _ _ => .fault .appBusy
  | .flushF2 _ => .fault .appBusy
  | .flushF3 _ _ => .fault .appBusy

/-- CONTINUE (spec/40_tx_engine.md R123): ContinueAction, its result on the APP port. -/
def execCont (s : State) : Host.Outcome State Fault Refusal :=
  whenIdle s (whenInited .app s (.next ((continueAction s).2.answerApp (continueAction s).1 [])))

/-- The credit of a completed run (spec/40_tx_engine.md R125): `TXHEAD <- add(TXHEAD, TXLEN, TX_CAP)`, then Idle. -/
def State.creditRun (s : State) : State :=
  { s with txHead := idxOf (ringAdd s.txHead.toNat s.txLen.toNat s.params.txCap) }.leaveRunning

/-- TX_COMPLETE (spec/40_tx_engine.md R125): credit the run and chain the next one; ignored when Idle (R127). -/
def execTxComplete (s : State) : Host.Outcome State Fault Refusal :=
  whenInited .irq s
    (if s.txRun then
      .next ((continueAction s.creditRun).2.answerIrq (continueAction s.creditRun).1)
    else .next (s.answerIrq (codeWord .ok)))

/-- ABORT_TX (spec/40_tx_engine.md R126): Idle, then `Cap.abortTx`, whatever it answers; an error is passed on (R242). -/
def execAbortTx (s : State) : Host.Outcome State Fault Refusal :=
  let call := capAbortTx s.leaveRunning
  whenIdle s (whenInited .app s
    (.next (call.2.answerApp (if isErr call.1 then call.1 else codeWord .ok) [])))

end Sys2Proof.Machine
end

