-- ==== Sys2Proof/Machine/Lifecycle.lean ====
section
/-! DEFINITION. The device and its lifecycle (spec/42_device_lifecycle.md): INIT, FLUSH, GETFLAGS, TEARDOWN. -/

namespace Sys2Proof.Machine

/-- What a successful INIT writes (spec/42_device_lifecycle.md R181): both rings empty, Idle, the first batch's origin and size,
`FLAGS` zeroed, the capability table stored; the buffers are not written (spec/10_state.md R45). -/
def State.zeroed (capMask : BitVec 6) (s : State) : State :=
  { s with
    txHead := 0#24
    txTail := 0#24
    txRun := false
    txLen := 0#24
    rxHead := 0#24
    rxTail := 0#24
    rxOrg := 0#24
    rxSize := idxOf s.params.rxCap
    flags := 0#8
    caps := capMask
    inited := true }

/-- INIT's body (spec/42_device_lifecycle.md R181 to R184): the checks in order, then the first batch, then the registers. -/
def initBody (capMask : BitVec 6) (s : State) : State :=
  let call := capStartRx 0#24 (idxOf s.params.rxCap) s
  if s.inited then s.answerApp (codeWord .busy) []
  else if !suppliesMandatory s.params capMask then s.answerApp (codeWord .invalidArgument) []
  else if isErr call.1 then call.2.answerApp call.1 []
  else (call.2.zeroed capMask).answerApp (codeWord .ok) []

/-- INIT (spec/42_device_lifecycle.md R181). -/
def execInit (capMask : BitVec 6) (s : State) : Host.Outcome State Fault Refusal :=
  whenIdle s (.next (initBody capMask s))

/-- FLUSH, step F1 (spec/42_device_lifecycle.md R185): empty at once, or not supported without timeouts. -/
def flushF1 (timeout : Idx) (s : State) : State :=
  if s.txHead = s.txTail then s.answerApp (codeWord .ok) []
  else if !s.params.timeout then s.answerApp (codeWord .notSupported) []
  else s.standAt (.flushF2 timeout)

/-- FLUSH, step F2 (spec/42_device_lifecycle.md R185): `t0 <- Cap.nowMillis()`. -/
def flushF2 (timeout : Idx) (s : State) : State :=
  (capNowMillis s).2.standAt (.flushF3 timeout (capNowMillis s).1)

/-- FLUSH, one pass of step F3 (spec/42_device_lifecycle.md R185): empty, or out of time, or again. -/
def flushF3 (timeout : Idx) (t0 : Timestamp) (s : State) : State :=
  let call := capNowMillis s
  if s.txHead = s.txTail then s.answerApp (codeWord .ok) []
  else if timeout.toNat ≤ elapsed t0 call.1 then call.2.answerApp (codeWord .timeout) []
  else call.2.standAt (.flushF3 timeout t0)

/-- FLUSH (spec/42_device_lifecycle.md R185): the step at which APP stands in it, F1 from `Idle`. -/
def execFlush (timeoutMs : Idx) (s : State) : Host.Outcome State Fault Refusal :=
  match s.appSeq with
  | .idle => whenInited .app s (.next (flushF1 timeoutMs s))
  | .flushF2 t => .next (flushF2 t s)
  | .flushF3 t t0 => .next (flushF3 t t0 s)
  | .enqueue _ _ => .fault .appBusy
  | .readR2 _ => .fault .appBusy
  | .readR3 _ _ _ => .fault .appBusy
  | .readR4 _ _ _ _ => .fault .appBusy

/-- GETFLAGS (spec/42_device_lifecycle.md R186). -/
def execGetFlags (s : State) : Host.Outcome State Fault Refusal :=
  whenIdle s (whenInited .app s (.next (s.answerApp (flagsWord s.flags) [])))

/-- The result of TEARDOWN: the first error, else `Ok` (spec/42_device_lifecycle.md R187, spec/60_exceptions.md R243). -/
def firstError (r1 r2 : Word) : Word := if isErr r1 then r1 else if isErr r2 then r2 else codeWord .ok

/-- TEARDOWN (spec/42_device_lifecycle.md R187): Idle, both aborts, Tx first, Uninitialised whatever they answer. -/
def execTeardown (s : State) : Host.Outcome State Fault Refusal :=
  let tx := capAbortTx s.leaveRunning
  let rx := capAbortRx tx.2
  whenIdle s (whenInited .app s (.next ({ rx.2 with inited := false }.answerApp (firstError tx.1 rx.1) [])))

end Sys2Proof.Machine
end

