-- ==== Sys2Proof/Machine/Receive.lean ====
section
/-! DEFINITION. The receive ring engine (spec/41_rx_engine.md): READ, RX_HALF, RX_COMPLETE, IDLE_LINE and the refresh they share. -/

namespace Sys2Proof.Machine

/-- `RXTAIL <- add(RXORG, RXSIZE - r, RX_CAP)` (spec/41_rx_engine.md R153). -/
def State.refreshTail (r : Word) (s : State) : State :=
  { s with rxTail := idxOf (ringAdd s.rxOrg.toNat (s.rxSize.toNat - r.toNat) s.params.rxCap) }

/-- RefreshAction (spec/41_rx_engine.md R153): `none` when `r > RXSIZE`, for which no `RXTAIL` is computed (R161, U3). -/
def refreshAction (s : State) : Option (Word × State) :=
  let call := capRxRemaining s
  if call.1.toNat ≤ s.rxSize.toNat then some (call.1, call.2.refreshTail call.1) else none

/-- The body that IDLE_LINE and RX_HALF share: refresh, then `Ok` (spec/41_rx_engine.md R154, R162). -/
def refreshAndAnswer (s : State) : Host.Outcome State Fault Refusal :=
  match refreshAction s with
  | none => .fault .rxRemainingOutOfRange
  | some r => .next (r.2.answerIrq (codeWord .ok))

/-- IDLE_LINE (spec/41_rx_engine.md R154). -/
def execIdleLine (s : State) : Host.Outcome State Fault Refusal :=
  whenInited .irq s (refreshAndAnswer s)

/-- RX_HALF (spec/41_rx_engine.md R162): "one step, the same action as IDLE_LINE". -/
def execRxHalf (s : State) : Host.Outcome State Fault Refusal :=
  whenInited .irq s (refreshAndAnswer s)

/-- The rearm of a batch boundary (spec/41_rx_engine.md R158): the next batch starts where the finished one ended and covers the
whole buffer; on a failed start `RXORG` and `RXSIZE` keep their values (R159). -/
def rearm (s : State) : Word × State :=
  let org := idxOf (ringAdd s.rxOrg.toNat s.rxSize.toNat s.params.rxCap)
  let size := idxOf s.params.rxCap
  let call := capStartRx org size s
  if isErr call.1 then (call.1, call.2) else (codeWord .ok, { call.2 with rxOrg := org, rxSize := size })

/-- RX_COMPLETE (spec/41_rx_engine.md R158): refresh; rearm only when nothing remains of the batch. -/
def execRxComplete (s : State) : Host.Outcome State Fault Refusal :=
  whenInited .irq s
    (match refreshAction s with
    | none => .fault .rxRemainingOutOfRange
    | some r =>
      if r.1 ≠ 0#32 then .next (r.2.answerIrq (codeWord .ok))
      else .next ((rearm r.2).2.answerIrq (rearm r.2).1))

/-- READ, step R1 (spec/41_rx_engine.md R155): the implicit refresh before every read. -/
def readR1 (maxLen : Idx) (s : State) : Host.Outcome State Fault Refusal :=
  match refreshAction s with
  | none => .fault .rxRemainingOutOfRange
  | some r => .next (r.2.standAt (.readR2 maxLen))

/-- READ, step R2 (spec/41_rx_engine.md R156): the snapshot; 0 at once when there is nothing to copy. -/
def readR2 (maxLen : Idx) (s : State) : State :=
  let n := min maxLen.toNat (rxAvail s.params s.rxHead s.rxTail)
  if n = 0 then { s with flags := setShort (decide (0 < maxLen.toNat)) s.flags }.answerApp (codeWord .ok) []
  else s.standAt (.readR3 maxLen s.rxHead (idxOf n))

/-- READ, step R3 (spec/41_rx_engine.md R156): the copy-out of `n` bytes from the head snapshot on. -/
def readR3 (maxLen h n : Idx) (s : State) : Host.Outcome State Fault Refusal :=
  if ringInRange h.toNat n.toNat s.params.rxCap then
    .next (s.standAt (.readR4 maxLen h n (ringRead .rxBuf s.rxBuf h.toNat n.toNat s.params.rxCap)))
  else .fault .bufferRange

/-- READ, step R4 (spec/41_rx_engine.md R157): release the slots and give the result. -/
def readR4 (maxLen h n : Idx) (dst : List Byte) (s : State) : State :=
  { s with
    rxHead := idxOf (ringAdd h.toNat n.toNat s.params.rxCap)
    flags := setShort (isShort n maxLen) s.flags }.answerApp (countWord n) dst

/-- READ (spec/41_rx_engine.md R155 to R157): the step at which APP stands in it, R1 from `Idle`. -/
def execRead (maxLen : Idx) (s : State) : Host.Outcome State Fault Refusal :=
  match s.appSeq with
  | .idle => whenInited .app s (readR1 maxLen s)
  | .readR2 m => .next (readR2 m s)
  | .readR3 m h n => readR3 m h n s
  | .readR4 m h n dst => .next (readR4 m h n dst s)
  | .enqueue _ _ => .fault .appBusy
  | .flushF2 _ => .fault .appBusy
  | .flushF3 _ _ => .fault .appBusy

end Sys2Proof.Machine
end

