-- ==== Sys2Proof/Machine/Dispatch.lean ====
section
/-! DEFINITION. One arm per operation: which meaning a command has. -/

namespace Sys2Proof.Machine

def exec (i : Instr) (s : State) : Host.Outcome State Fault Refusal :=
  match i with
  | .init capMask => Sys2Proof.Machine.execInit capMask s
  | .enqueue len => Sys2Proof.Machine.execEnqueue len s
  | .read maxLen => Sys2Proof.Machine.execRead maxLen s
  | .flush timeoutMs => Sys2Proof.Machine.execFlush timeoutMs s
  | .getFlags => Sys2Proof.Machine.execGetFlags s
  | .cont => Sys2Proof.Machine.execCont s
  | .abortTx => Sys2Proof.Machine.execAbortTx s
  | .teardown => Sys2Proof.Machine.execTeardown s
  | .txComplete => Sys2Proof.Machine.execTxComplete s
  | .rxHalf => Sys2Proof.Machine.execRxHalf s
  | .rxComplete => Sys2Proof.Machine.execRxComplete s
  | .idleLine => Sys2Proof.Machine.execIdleLine s

end Sys2Proof.Machine
end

