-- ==== Sys2Proof/Machine/Agents.lean ====
section
/-! DEFINITION. The moves of the three agents (spec/60_exceptions.md R250 to R254): presenting a command, the next step of the APP
operation in progress, taking an event, an ENV action, the hardware reset; and where a presented command stands. -/

namespace Sys2Proof.Machine

/-- The operation in progress, if any (spec/10_state.md R36). -/
def AppSeq.current? : AppSeq → Option Instr
  | .idle => none
  | .enqueue _ v => some (.enqueue v.len)
  | .readR2 maxLen => some (.read maxLen)
  | .readR3 maxLen _ _ => some (.read maxLen)
  | .readR4 maxLen _ _ _ => some (.read maxLen)
  | .flushF2 timeout => some (.flush timeout)
  | .flushF3 timeout _ => some (.flush timeout)

/-- A word at a port (spec/30_encoding.md R95): the operation's own rule, or the code of the decode error and no other change. -/
def runWord (port : Port) (cw : Word) (s : State) : Host.Outcome State Fault Refusal :=
  match decode port cw with
  | .ok i => exec i s
  | .notSupported => .next (s.answer port (codeWord .notSupported))
  | .invalidArgument => .next (s.answer port (codeWord .invalidArgument))

/-- APP presents a command word with the bytes beside it, which it may do only when `APPSEQ = Idle` (spec/10_state.md R36). -/
def presentApp (cw : Word) (src : List Byte) (s : State) : Host.Outcome State Fault Refusal :=
  whenIdle s (runWord .app cw { s with appSrc := src })

/-- APP takes the next step of the operation in progress (spec/60_exceptions.md R251). -/
def appStep (s : State) : Host.Outcome State Fault Refusal :=
  match s.appSeq.current? with
  | none => .fault .appIdle
  | some i => exec i s

/-- The IRQ agent takes a set pending bit: "it clears the bit and issues the corresponding command" (spec/60_exceptions.md R246). -/
def takeEvent (e : Event) (s : State) : Host.Outcome State Fault Refusal :=
  if s.env.pend.get e then exec e.instr (s.clearPend e) else .fault .eventNotPending

/-- The move that an entry of the schedule names (entry 4). -/
def runInput (inp : Input) (s : State) : Host.Outcome State Fault Refusal :=
  match inp with
  | .app cw src => presentApp cw src s
  | .appStep => appStep s
  | .irq cw => runWord .irq cw s
  | .take e => takeEvent e s
  | .env a => envAct a s
  | .reset => .next (hardwareReset s)

/-- With nothing scheduled, APP goes on with the operation in progress; without one the block waits
(spec/60_exceptions.md R260, entry 4). -/
def runUnscheduled (s : State) : Host.Outcome State Fault Refusal :=
  match s.appSeq.current? with
  | none => .next s
  | some i => exec i s

/-- A command word, with zero bytes beside it, as the next move on the port that its `PORT` bit names; an APP command needs
`APPSEQ = Idle` (spec/10_state.md R36, entry 18). -/
def placeCommand (cw : Word) (s : State) : State :=
  match portOf cw with
  | .app => { s with appSeq := .idle, inputs := .app cw (zeroSrc cw) :: s.inputs }
  | .irq => { s with inputs := .irq cw :: s.inputs }

end Sys2Proof.Machine
end

