-- ==== Sys2Proof/Machine/Step.lean ====
section
/-! DEFINITION. One step of the machine: the next move of the schedule (spec/60_exceptions.md R250, R254). -/

namespace Sys2Proof.Machine

/-- One indivisible transition of one agent (spec/60_exceptions.md R250): the one the schedule names, or without a schedule APP's. -/
def step (s : State) : Host.Outcome State Fault Refusal :=
  match s.inputs with
  | [] => runUnscheduled s
  | inp :: rest => runInput inp { s with inputs := rest }

/-- `s` with the command word `w` standing where the next step takes its command: at the port its `PORT` bit names, ahead of the
rest of the schedule (entry 18). A command is one 32-bit word (spec/30_encoding.md R91), so the bits above `nbits` are zero in `w`. -/
def State.withFetchWord (s : State) (nbits w : Nat) : State := placeCommand (BitVec.ofNat 32 (w % 2 ^ nbits)) s

end Sys2Proof.Machine
end

