-- ==== Sys2Proof/Safety.lean ====
section
/-! DEFINITION. What a good state and a good run are, in the terms the statements use: the invariants of spec/10_state.md R39 to R41, the
agreement between the block and ENV (R40 (d), spec/41_rx_engine.md R151), and the two byte streams (spec/40_tx_engine.md R129,
spec/41_rx_engine.md R163). -/

namespace Sys2Proof.Machine

/-- What holds of the registers while `INITED = 1`: the index ranges of spec/10_state.md R39, the transmit pair of R40 (b), (c),
the batch geometry of R30 and spec/41_rx_engine.md R151, the mandatory capabilities of spec/42_device_lifecycle.md R182 and the
bits of `FLAGS` that R33 holds at 0. -/
structure Live (s : State) : Prop where
  txHead_lt : s.txHead.toNat < s.params.txCap
  txTail_lt : s.txTail.toNat < s.params.txCap
  rxHead_lt : s.rxHead.toNat < s.params.rxCap
  rxTail_lt : s.rxTail.toNat < s.params.rxCap
  rxOrg_zero : s.rxOrg = 0#24
  rxSize_cap : s.rxSize.toNat = s.params.rxCap
  running : s.txRun = true →
    1 ≤ s.txLen.toNat ∧ s.txLen.toNat ≤ txUsed s.params s.txHead s.txTail ∧ s.txHead.toNat + s.txLen.toNat ≤ s.params.txCap
  idle : s.txRun = false → s.txLen = 0#24
  batch : ∃ b, s.env.rxBatch = some b ∧ b.off = s.rxOrg ∧ b.len = s.rxSize ∧ b.rem.toNat ≤ b.len.toNat
  caps : suppliesMandatory s.params s.caps = true
  flags : s.flags.toNat ≤ 1

/-- What holds of `APPSEQ`'s locals between two steps of one APP operation (spec/10_state.md R36, R37). -/
def SeqOk (s : State) : Prop :=
  match s.appSeq with
  | .idle => True
  | .enqueue .e2 v =>
    v.src.length = v.len.toNat ∧ 1 ≤ v.n.toNat ∧ v.n.toNat ≤ v.len.toNat ∧ v.t = s.txTail ∧
      v.n.toNat ≤ txFree s.params s.txHead s.txTail
  | .enqueue .e3 v =>
    v.src.length = v.len.toNat ∧ 1 ≤ v.n.toNat ∧ v.n.toNat ≤ v.len.toNat ∧ v.t = s.txTail ∧
      v.n.toNat ≤ txFree s.params s.txHead s.txTail ∧
      ringRead .txBuf s.txBuf v.t.toNat v.n.toNat s.params.txCap = v.src.take v.n.toNat
  | .enqueue .e4 v =>
    v.src.length = v.len.toNat ∧ 1 ≤ v.n.toNat ∧ v.n.toNat ≤ v.len.toNat ∧ v.t.toNat < s.params.txCap ∧
      v.n.toNat < s.params.txCap ∧ s.txTail.toNat = ringAdd v.t.toNat v.n.toNat s.params.txCap
  | .readR2 _ => True
  | .readR3 maxLen h n => h = s.rxHead ∧ 1 ≤ n.toNat ∧ n.toNat ≤ maxLen.toNat ∧ n.toNat < s.params.rxCap
  | .readR4 maxLen h n dst =>
    h = s.rxHead ∧ 1 ≤ n.toNat ∧ n.toNat ≤ maxLen.toNat ∧ n.toNat < s.params.rxCap ∧ dst.length = n.toNat
  | .flushF2 _ => s.params.timeout = true
  | .flushF3 _ _ => s.params.timeout = true

/-- The invariant of the machine: parameters in range, both buffers in canonical form, the registers in order while `INITED = 1`,
and an APP operation in progress only then, with its locals in order. -/
structure Inv (s : State) : Prop where
  params : s.params.WellFormed
  txBuf : s.txBuf.wf s.params.txCap
  rxBuf : s.rxBuf.wf s.params.rxCap
  live : s.inited = true → Live s
  seqInited : s.appSeq ≠ .idle → s.inited = true
  seq : SeqOk s

/-- spec/10_state.md R40 (d): the block's Tx state and ENV's run agree. While Uninitialised ENV has neither a run nor a completion
of one; a run in flight has no completion pending. -/
structure TxCoupled (s : State) : Prop where
  uninit : s.inited = false → s.env.txRun = none ∧ s.env.pend.txComplete = false
  idle : s.inited = true → s.txRun = false → s.env.txRun = none ∧ s.env.pend.txComplete = false
  running : s.inited = true → s.txRun = true →
    (s.env.txRun = some ⟨s.txHead, s.txLen⟩ ∧ s.env.pend.txComplete = false) ∨
    (s.env.txRun = none ∧ s.env.pend.txComplete = true)

/-- The capability calls made between two states of a run, newest first. -/
def NewCalls (s t : State) (new : List CapCall) : Prop := t.calls = new ++ s.calls

/-- "no abort has returned an error" (spec/10_state.md R40 (d), U5), of every abort of the step from `s` to `t`. -/
def AbortsOk (s t : State) : Prop :=
  ∀ new, NewCalls s t new → ∀ c ∈ new, c.cap = .abortTx ∨ c.cap = .abortRx → isErr c.resp = false

/-- "with no ABORT_TX" (spec/40_tx_engine.md R129 (c)), of the step from `s` to `t`. -/
def NoAborts (s t : State) : Prop := ∀ new, NewCalls s t new → ∀ c ∈ new, c.cap ≠ .abortTx

/-- The next move is no TX_COMPLETE that the firmware issues on the IRQ port by itself: no event need stand behind such a word, which is
outside ENV's contract (spec/43_capability_calls.md R215, spec/95_test_vectors.md P3 line 7, entry 17). -/
def NoStrayIrq (s : State) : Prop := ∀ cw, s.inputs.head? = some (.irq cw) → decode .irq cw ≠ .ok .txComplete

/-- A move of IRQ or ENV, which may stand between any two steps of an APP operation (spec/60_exceptions.md R251). -/
def Input.BetweenAppSteps : Input → Prop
  | .app _ _ => False
  | .appStep => False
  | .irq _ => True
  | .take _ => True
  | .env _ => True
  | .reset => False

/-- The next move is not the hardware reset. -/
def NoReset (s : State) : Prop := s.inputs.head? ≠ some .reset

/-- The index in `TXBUF` of the oldest queued byte that has not reached the wire: past the committed run once ENV has completed it
and the TX_COMPLETE step has not run yet (spec/10_state.md R40 (d)). -/
def unsentFrom (s : State) : Nat :=
  if s.txRun && s.env.txRun.isNone then ringAdd s.txHead.toNat s.txLen.toNat s.params.txCap else s.txHead.toNat

/-- The queued bytes that have not reached the wire, oldest first. -/
def unsentBytes (s : State) : List Byte :=
  ringRead .txBuf s.txBuf (unsentFrom s) (ringDist (unsentFrom s) s.txTail.toNat s.params.txCap) s.params.txCap

/-- The bytes that the step from `s` to `s'` published: those of an ENQUEUE that took step E3 (spec/40_tx_engine.md R121). -/
def publishedBytes (s s' : State) : List Byte :=
  match s.appSeq, s'.appSeq with
  | .enqueue .e3 v, .enqueue .e4 _ => v.src.take v.n.toNat
  | _, _ => []

/-- Where ENV writes the next arriving byte: `add(RXORG, RXSIZE - rem, RX_CAP)` (spec/20_memory.md R73). -/
def rxFront (s : State) : Nat :=
  match s.env.rxBatch with
  | some b => ringAdd s.rxOrg.toNat (s.rxSize.toNat - b.rem.toNat) s.params.rxCap
  | none => s.rxTail.toNat

/-- The bytes delivered and not yet released by a READ, absent overrun: the ghost count `u` of spec/41_rx_engine.md R160. -/
def unreadCount (s : State) : Nat := ringDist s.rxHead.toNat (rxFront s) s.params.rxCap

/-- Those bytes, oldest first. -/
def unreadBytes (s : State) : List Byte :=
  ringRead .rxBuf s.rxBuf s.rxHead.toNat (unreadCount s) s.params.rxCap

/-- The bytes that the step from `s` to `s'` handed to the caller: those of a READ that took step R4 (spec/41_rx_engine.md R157). -/
def handedBytes (s s' : State) : List Byte :=
  match s.appSeq, s'.appSeq with
  | .readR4 _ _ _ dst, .idle => dst
  | _, _ => []

/-- "`u <= RX_CAP - 1` at every step" (spec/41_rx_engine.md R160): a byte that arrives at an Initialised block finds room. -/
def ArrivalHasRoom (s s' : State) : Prop :=
  s.inited = true → s.env.rxLine.length < s'.env.rxLine.length → unreadCount s + 1 < s.params.rxCap

/-- Absent overrun the tail as last computed lies between the head and ENV's next slot, and what a READ in progress has counted and
copied is the oldest part of the unread bytes (spec/41_rx_engine.md R156, R160). -/
structure RxExact (s : State) : Prop where
  tail : s.inited = true → ringDist s.rxHead.toNat s.rxTail.toNat s.params.rxCap ≤ unreadCount s
  counted : ∀ maxLen h n, s.appSeq = .readR3 maxLen h n →
    n.toNat ≤ ringDist s.rxHead.toNat s.rxTail.toNat s.params.rxCap
  copied : ∀ maxLen h n dst, s.appSeq = .readR4 maxLen h n dst →
    n.toNat ≤ ringDist s.rxHead.toNat s.rxTail.toNat s.params.rxCap ∧
    dst = ringRead .rxBuf s.rxBuf h.toNat n.toNat s.params.rxCap

/-- A command word at a port, as the schedule names it (spec/30_encoding.md R90). -/
def Input.command (p : Port) (cw : Word) (src : List Byte) : Input :=
  match p with
  | .app => .app cw src
  | .irq => .irq cw

/-- The state in which the operation of a presented command runs: the schedule moved on, and on the APP port the bytes beside the
command in place (spec/30_encoding.md R97). -/
def State.withCommand (p : Port) (src : List Byte) (rest : List Input) (s : State) : State :=
  match p with
  | .app => { s with inputs := rest, appSrc := src }
  | .irq => { s with inputs := rest }

/-- A start or abort call, whose response is a result word (spec/43_capability_calls.md R210). -/
def CapCall.hasResult (c : CapCall) : Prop :=
  c.cap = .startRx ∨ c.cap = .abortRx ∨ c.cap = .startTx ∨ c.cap = .abortTx

/-- The states of a block that has not been initialised: they may differ in every register and buffer byte that
spec/10_state.md R43 calls unspecified, and in nothing else that the block or ENV can tell. -/
structure SameBeforeInit (s t : State) : Prop where
  uninit : s.inited = false ∧ t.inited = false
  params : s.params = t.params
  appSeq : s.appSeq = t.appSeq
  env : s.env = t.env
  out : s.out = t.out
  calls : s.calls = t.calls
  script : s.script = t.script
  freeCtr : s.freeCtr = t.freeCtr

end Sys2Proof.Machine
end

