-- ==== Sys2Proof/Certificates/Slice0/Obligations.lean ====
section
/-! DEFINITION. The statements for the provers, from the numbered rules of spec/. A result statement gives the whole next state, so it is
the frame as well: what the update does not name is unchanged. -/

open Sys2Proof Sys2Proof.Machine

/-! ## Encoding and steps -/

/-- R91 to R93, R96: every operation's word decodes to it on its own port, and on the other port is not supported. -/
def Obligations.DecodeOfEncodeIsTheInstruction : Prop :=
  ∀ i : Instr, decode i.port (encode i) = .ok i ∧ ∀ p, p ≠ i.port → decode p (encode i) = .notSupported

/-- R93: a word that decodes is the word of the operation it decodes to, on the port that its top bit and the operation name. -/
def Obligations.DecodedWordIsItsEncoding : Prop :=
  ∀ (p : Port) (cw : Word) (i : Instr), decode p cw = .ok i → encode i = cw ∧ i.port = p ∧ portOf cw = p

/-- R95, R96: a presented word is answered `NotSupported` when its `OPC` is none of the twelve or its `PORT` bit does not name the
port; else `InvalidArgument` when a bit of `ARG` that R93 gives as 0 is 1; neither changes anything but the result; else the
operation's own rule applies. -/
def Obligations.DecodingIsTotalAndOrdered : Prop :=
  ∀ (s : State) (p : Port) (cw : Word) (src : List Byte) (rest : List Input),
    s.inputs = Input.command p cw src :: rest → (p = .app → s.appSeq = .idle) →
    let opc := cw.toNat / 2 ^ 24
    let arg := cw.toNat % 2 ^ 24
    let known := (1 ≤ opc ∧ opc ≤ 8) ∨ (0x81 ≤ opc ∧ opc ≤ 0x84)
    let onItsPort := (p = .irq ↔ 0x80 ≤ opc)
    let reserved := (opc = 1 ∧ 64 ≤ arg) ∨ ((5 ≤ opc ∧ opc ≤ 8) ∧ arg ≠ 0) ∨ (0x81 ≤ opc ∧ arg ≠ 0)
    (¬ known ∨ ¬ onItsPort →
      step s = .next { s.withCommand p src rest with out := ⟨p, 0xFFFFFFFA#32, []⟩ :: s.out }) ∧
    (known ∧ onItsPort ∧ reserved →
      step s = .next { s.withCommand p src rest with out := ⟨p, 0xFFFFFFFD#32, []⟩ :: s.out }) ∧
    (known ∧ onItsPort ∧ ¬ reserved →
      ∃ i, encode i = cw ∧ i.port = p ∧ step s = exec i (s.withCommand p src rest))

/-- R93: the words of the table, written out, decode to the operations they stand for. -/
def Obligations.TableWordsDecode : Prop :=
  decode .app 0x0100003F#32 = .ok (.init 0x3F#6) ∧ decode .app 0x02000008#32 = .ok (.enqueue 8#24) ∧
  decode .app 0x03FFFFFF#32 = .ok (.read 0xFFFFFF#24) ∧ decode .app 0x04000005#32 = .ok (.flush 5#24) ∧
  decode .app 0x05000000#32 = .ok .getFlags ∧ decode .app 0x06000000#32 = .ok .cont ∧
  decode .app 0x07000000#32 = .ok .abortTx ∧ decode .app 0x08000000#32 = .ok .teardown ∧
  decode .irq 0x81000000#32 = .ok .txComplete ∧ decode .irq 0x82000000#32 = .ok .rxHalf ∧
  decode .irq 0x83000000#32 = .ok .rxComplete ∧ decode .irq 0x84000000#32 = .ok .idleLine

/-- R250, R251, R246: a step runs the operation that a presented word decodes to; APP's next step runs the operation in progress;
taking an event clears its bit and runs its command. (The two clauses about an empty schedule are the model's choice, entry 4; ENQUEUE's
bytes standing beside the word, entry 13.) -/
def Obligations.StepRunsTheDecodedInstruction : Prop :=
  (∀ (s : State) (p : Port) (cw : Word) (src : List Byte) (rest : List Input) (i : Instr),
    s.inputs = Input.command p cw src :: rest → (p = .app → s.appSeq = .idle) → decode p cw = .ok i →
    step s = exec i (s.withCommand p src rest)) ∧
  (∀ (s : State) (rest : List Input) (i : Instr),
    s.inputs = .appStep :: rest → s.appSeq.current? = some i → step s = exec i { s with inputs := rest }) ∧
  (∀ (s : State) (rest : List Input) (e : Event),
    s.inputs = .take e :: rest → s.env.pend.get e = true →
    step s = exec e.instr { s with inputs := rest, env := { s.env with pend := s.env.pend.put false e } }) ∧
  (∀ (s : State) (i : Instr), s.inputs = [] → s.appSeq.current? = some i → step s = exec i s) ∧
  (∀ s : State, s.inputs = [] → s.appSeq = .idle → step s = .next s)

/-- R36, R284, R246, R219, R97: the moves that the spec gives no step stop the run, each by its name (entries 4, 13, 14). -/
def Obligations.MovesWithoutAStepStop : Prop :=
  (∀ (s : State) (cw : Word) (src : List Byte) (rest : List Input),
    s.inputs = .app cw src :: rest → s.appSeq ≠ .idle → step s = .fault .appBusy) ∧
  (∀ (i : Instr) (s : State), i.port = .app → s.appSeq ≠ .idle →
    (∀ len l v, i = .enqueue len → s.appSeq ≠ .enqueue l v) →
    (∀ m, i = .read m → (∀ k, s.appSeq ≠ .readR2 k) ∧ (∀ k h n, s.appSeq ≠ .readR3 k h n) ∧
      ∀ k h n d, s.appSeq ≠ .readR4 k h n d) →
    (∀ m, i = .flush m → (∀ k, s.appSeq ≠ .flushF2 k) ∧ ∀ k t0, s.appSeq ≠ .flushF3 k t0) →
    exec i s = .fault .appBusy) ∧
  (∀ (s : State) (rest : List Input), s.inputs = .appStep :: rest → s.appSeq = .idle → step s = .fault .appIdle) ∧
  (∀ (s : State) (rest : List Input) (e : Event),
    s.inputs = .take e :: rest → s.env.pend.get e = false → step s = .fault .eventNotPending) ∧
  (∀ (s : State) (rest : List Input), s.inputs = .env .txdone :: rest → s.env.txRun = none →
    step s = .fault .actionNotEnabled) ∧
  (∀ (s : State) (rest : List Input), s.inputs = .env .half :: rest → s.env.rxBatch = none →
    step s = .fault .actionNotEnabled) ∧
  (∀ (len : Idx) (s : State), s.appSeq = .idle → s.inited = true → s.appSrc.length ≠ len.toNat →
    exec (.enqueue len) s = .fault .srcLength)

/-- R240, "The block never traps, halts or enters a handler": in a state that meets the invariant every operation that may be
presented, and every further step of one in progress, answers a next state. -/
def Obligations.EveryOperationAnswers : Prop :=
  ∀ (i : Instr) (s : State), Inv s →
    (i.port = .app → s.appSeq = .idle ∨ s.appSeq.current? = some i) →
    (∀ len, i = .enqueue len → s.appSeq = .idle → s.appSrc.length = len.toNat) →
    ∃ t, exec i s = .next t

/-- R90, R36, R251: a step of an operation gives exactly one result, on the operation's port, or none while the operation stands at
a further step; only READ hands out bytes. -/
def Obligations.OneResultPerCommand : Prop :=
  ∀ (i : Instr) (s t : State), exec i s = .next t →
    (t.out = s.out ∧ t.appSeq.current? ≠ none ∧ i.port = .app) ∨
    (∃ v dst, t.out = ⟨i.port, v, dst⟩ :: s.out ∧ (i.port = .app → t.appSeq = .idle) ∧
      (dst ≠ [] → ∃ m, i = .read m))

/-! ## Lifecycle -/

/-- R280: after a hardware reset, in every instance and whatever came before, `INITED = 0`, `APPSEQ = Idle`, ENV has no run, no batch
and no event; and the block executes nothing until a command arrives. (The reset as an input that keeps the schedule is the model's
choice, entry 19; the waiting step, entry 4.) -/
def Obligations.HardwareResetIsUninitialised : Prop :=
  (∀ (s : State) (rest : List Input), s.inputs = .reset :: rest →
    ∃ t, step s = .next t ∧ t.params = s.params ∧ t.inited = false ∧ t.appSeq = .idle ∧ t.env.txRun = none ∧
      t.env.rxBatch = none ∧ (∀ e, t.env.pend.get e = false) ∧ t.inputs = rest) ∧
  State.reset.inited = false ∧ State.reset.appSeq = .idle ∧ State.reset.env.txRun = none ∧
  State.reset.env.rxBatch = none ∧ (∀ e, State.reset.env.pend.get e = false) ∧ step State.reset = .next State.reset

/-- R244: while `INITED = 0` every operation except INIT, on either port, returns `NotInitialized`, calls no capability and writes
no state. -/
def Obligations.UninitialisedRefusesEveryCommand : Prop :=
  ∀ (i : Instr) (s : State), s.inited = false → (∀ m, i ≠ .init m) → (i.port = .app → s.appSeq = .idle) →
    exec i s = .next { s with out := ⟨i.port, 0xFFFFFFFB#32, []⟩ :: s.out }

/-- R181, R183, R184: INIT, its checks in their order. On an Initialised block it is `Busy`; with a mandatory capability absent
`InvalidArgument`, neither calling a capability; a failed `Cap.startRx(0, RX_CAP)` returns its error; in none of these does a register or
ENV change. A successful one zeroes both rings, arms the batch `(0, RX_CAP)`, stores the capability table and sets `INITED`. -/
def Obligations.InitChecksArmsAndZeroes : Prop :=
  ∀ (m : BitVec 6) (s : State), s.appSeq = .idle →
    let need := if s.params.timeout then 0x3F#6 else 0x1F#6
    (s.inited = true → exec (.init m) s = .next { s with out := ⟨.app, 0xFFFFFFFC#32, []⟩ :: s.out }) ∧
    (s.inited = false → m &&& need ≠ need →
      exec (.init m) s = .next { s with out := ⟨.app, 0xFFFFFFFD#32, []⟩ :: s.out }) ∧
    (s.inited = false → m &&& need = need → isErr s.choice.resp = true →
      exec (.init m) s = .next { s with
        calls := ⟨.startRx, 0#24, idxOf s.params.rxCap, s.choice.resp⟩ :: s.calls
        script := s.script.tail, freeCtr := s.freeCtr + 1
        out := ⟨.app, s.choice.resp, []⟩ :: s.out }) ∧
    (s.inited = false → m &&& need = need → isErr s.choice.resp = false →
      exec (.init m) s = .next { s with
        txHead := 0#24, txTail := 0#24, txRun := false, txLen := 0#24
        rxHead := 0#24, rxTail := 0#24, rxOrg := 0#24, rxSize := idxOf s.params.rxCap
        flags := 0#8, caps := m, inited := true
        env := { s.env with rxBatch := some ⟨0#24, idxOf s.params.rxCap, idxOf s.params.rxCap⟩ }
        calls := ⟨.startRx, 0#24, idxOf s.params.rxCap, s.choice.resp⟩ :: s.calls
        script := s.script.tail, freeCtr := s.freeCtr + 1
        out := ⟨.app, 0#32, []⟩ :: s.out })

/-- R43, U1: the values that registers and buffers happen to hold before INIT reach nobody: two uninitialised states that differ only
in them give the same results and calls and differ in nothing else, command after command, and once INIT succeeds the registers agree
too. -/
def Obligations.StateBeforeInitIsUnobservable : Prop :=
  ∀ (i : Instr) (s s' t : State), SameBeforeInit s s' → (i.port = .app → s.appSeq = .idle) → exec i s = .next t →
    ∃ t', exec i s' = .next t' ∧ t.out = t'.out ∧ t.calls = t'.calls ∧ t.env = t'.env ∧ t.inited = t'.inited ∧
      t.params = t'.params ∧ t.appSeq = t'.appSeq ∧ t.script = t'.script ∧ t.freeCtr = t'.freeCtr ∧
      (t.inited = false → SameBeforeInit t t') ∧
      (t.inited = true → t.txHead = t'.txHead ∧ t.txTail = t'.txTail ∧ t.txRun = t'.txRun ∧ t.txLen = t'.txLen ∧
        t.rxHead = t'.rxHead ∧ t.rxTail = t'.rxTail ∧ t.rxOrg = t'.rxOrg ∧ t.rxSize = t'.rxSize ∧
        t.caps = t'.caps ∧ t.flags = t'.flags)

/-- R187: TEARDOWN resets the transmit pair, calls both aborts, Tx first, makes the block Uninitialised whatever they answer, and
returns the first error, else `Ok`; indices, `CAPS`, `FLAGS` and the buffers keep their values. -/
def Obligations.TeardownAlwaysUninitialises : Prop :=
  ∀ s : State, s.appSeq = .idle →
    (s.inited = false → exec .teardown s = .next { s with out := ⟨.app, 0xFFFFFFFB#32, []⟩ :: s.out }) ∧
    (s.inited = true →
      let tx := capAbortTx { s with txRun := false, txLen := 0#24 }
      let rx := capAbortRx tx.2
      ∃ t, exec .teardown s = .next t ∧ t = { rx.2 with
        inited := false
        out := ⟨.app, if isErr tx.1 then tx.1 else if isErr rx.1 then rx.1 else 0#32, []⟩ :: s.out } ∧
      t.txRun = false ∧ t.txLen = 0#24 ∧ t.txHead = s.txHead ∧ t.txTail = s.txTail ∧ t.rxHead = s.rxHead ∧
      t.rxTail = s.rxTail ∧ t.rxOrg = s.rxOrg ∧ t.rxSize = s.rxSize ∧ t.caps = s.caps ∧ t.flags = s.flags ∧
      t.txBuf = s.txBuf ∧ t.rxBuf = s.rxBuf ∧ t.appSeq = .idle ∧
      t.calls = ⟨.abortRx, 0#24, 0#24, rx.1⟩ :: ⟨.abortTx, 0#24, 0#24, tx.1⟩ :: s.calls)

/-- R186: GETFLAGS returns `FLAGS` and writes nothing; in a state that meets the invariant the result is 0 or 1. -/
def Obligations.GetFlagsReadsFlags : Prop :=
  ∀ s : State, s.appSeq = .idle →
    (s.inited = false → exec .getFlags s = .next { s with out := ⟨.app, 0xFFFFFFFB#32, []⟩ :: s.out }) ∧
    (s.inited = true → exec .getFlags s = .next { s with out := ⟨.app, s.flags.setWidth 32, []⟩ :: s.out }) ∧
    (s.inited = true → Inv s → (s.flags.setWidth 32 : Word).toNat ≤ 1)

/-- R185, R12: FLUSH, step by step: F1 (empty, not supported, or on), F2 (the clock is read), F3 (empty; or the clock is read and the
time is out; or again). It writes no register and starts no run. -/
def Obligations.FlushPollsUntilEmptyOrTimeout : Prop :=
  ∀ (timeout : Idx) (s : State),
    (s.appSeq = .idle → s.inited = false →
      exec (.flush timeout) s = .next { s with out := ⟨.app, 0xFFFFFFFB#32, []⟩ :: s.out }) ∧
    (s.appSeq = .idle → s.inited = true → s.txHead = s.txTail →
      exec (.flush timeout) s = .next { s with out := ⟨.app, 0#32, []⟩ :: s.out }) ∧
    (s.appSeq = .idle → s.inited = true → s.txHead ≠ s.txTail → s.params.timeout = false →
      exec (.flush timeout) s = .next { s with out := ⟨.app, 0xFFFFFFFA#32, []⟩ :: s.out }) ∧
    (s.appSeq = .idle → s.inited = true → s.txHead ≠ s.txTail → s.params.timeout = true →
      exec (.flush timeout) s = .next { s with appSeq := .flushF2 timeout }) ∧
    (s.appSeq = .flushF2 timeout →
      exec (.flush timeout) s = .next { s with
        appSeq := .flushF3 timeout s.env.now
        calls := ⟨.nowMillis, 0#24, 0#24, s.env.now⟩ :: s.calls }) ∧
    (∀ t0, s.appSeq = .flushF3 timeout t0 → s.txHead = s.txTail →
      exec (.flush timeout) s = .next { s with appSeq := .idle, out := ⟨.app, 0#32, []⟩ :: s.out }) ∧
    (∀ t0, s.appSeq = .flushF3 timeout t0 → s.txHead ≠ s.txTail → timeout.toNat ≤ (s.env.now - t0).toNat →
      exec (.flush timeout) s = .next { s with
        appSeq := .idle
        calls := ⟨.nowMillis, 0#24, 0#24, s.env.now⟩ :: s.calls
        out := ⟨.app, 0xFFFFFFFE#32, []⟩ :: s.out }) ∧
    (∀ t0, s.appSeq = .flushF3 timeout t0 → s.txHead ≠ s.txTail → (s.env.now - t0).toNat < timeout.toNat →
      exec (.flush timeout) s = .next { s with calls := ⟨.nowMillis, 0#24, 0#24, s.env.now⟩ :: s.calls })

/-- R254, R185: with `TIMEOUT_MS = 0` and timeouts configured FLUSH on a non-empty ring returns with its third APP step, whatever bytes
stand beside its word and whatever moves of IRQ and ENV stand between its steps: `Ok` if these have drained the ring, else
`Timeout`. With no move between, the three steps run and change nothing else. -/
def Obligations.ZeroTimeoutFlushReturns : Prop :=
  ∀ (s : State) (src : List Byte) (between between' rest : List Input), s.appSeq = .idle → s.inited = true →
    s.params.timeout = true → s.txHead ≠ s.txTail → (∀ x ∈ between ++ between', x.BetweenAppSteps) →
    s.inputs = .app 0x04000000#32 src :: (between ++ .appStep :: (between' ++ .appStep :: rest)) →
    (∀ u, Sys2Proof.core.run (between.length + between'.length + 2) s = .next u →
      ∃ t, step u = .next t ∧ t.appSeq = .idle ∧ t.inputs = rest ∧ t.txHead = u.txHead ∧ t.txTail = u.txTail ∧ t.env = u.env ∧
        t.out = ⟨.app, if u.txHead = u.txTail then 0#32 else 0xFFFFFFFE#32, []⟩ :: u.out) ∧
    (between = [] → between' = [] →
      ∃ t, Sys2Proof.core.run 3 s = .next t ∧ t.appSeq = .idle ∧ t.out = ⟨.app, 0xFFFFFFFE#32, []⟩ :: s.out ∧
        t.txHead = s.txHead ∧ t.txTail = s.txTail ∧ t.env = s.env ∧ t.inputs = rest)

/-! ## Transmit -/

/-- R120: ENQUEUE's step E1. With `n = min(LEN, txFree)`: 0 at once and `SHORT` set exactly when bytes were offered, or on to E2 with
the snapshot. -/
def Obligations.EnqueueAdmitsWhatFits : Prop :=
  ∀ (len : Idx) (s : State), s.appSeq = .idle → s.appSrc.length = len.toNat →
    let n := min len.toNat (txFree s.params s.txHead s.txTail)
    (s.inited = false → exec (.enqueue len) s = .next { s with out := ⟨.app, 0xFFFFFFFB#32, []⟩ :: s.out }) ∧
    (s.inited = true → n = 0 → exec (.enqueue len) s = .next { s with
      flags := if 0 < len.toNat then s.flags ||| 0x01#8 else s.flags &&& 0xFE#8
      out := ⟨.app, 0#32, []⟩ :: s.out }) ∧
    (s.inited = true → n ≠ 0 → exec (.enqueue len) s = .next { s with appSeq := .enqueue .e2 ⟨len, s.appSrc, s.txTail, idxOf n⟩ })

/-- R121, R70: E2 puts `src[i]` at `add(t, i, TX_CAP)` for `i < n` and leaves every other byte; E3 publishes them by moving the
tail. -/
def Obligations.EnqueueCopiesInThenPublishes : Prop :=
  ∀ (v : EnqueueLocals) (s : State),
    (Inv s → s.appSeq = .enqueue .e2 v →
      ∃ m : Memory, exec (.enqueue v.len) s = .next { s with txBuf := m, appSeq := .enqueue .e3 v } ∧
        (∀ i < v.n.toNat, some (readByte .txBuf m (ringAdd v.t.toNat i s.params.txCap)) = v.src[i]?) ∧
        (∀ a, (∀ i < v.n.toNat, a ≠ ringAdd v.t.toNat i s.params.txCap) →
          readByte .txBuf m a = readByte .txBuf s.txBuf a)) ∧
    (s.appSeq = .enqueue .e3 v →
      exec (.enqueue v.len) s = .next { s with
        txTail := idxOf ((v.t.toNat + v.n.toNat) % s.params.txCap), appSeq := .enqueue .e4 v })

/-- R122: ENQUEUE's step E4, over what ContinueAction does (stated by `ContinueSubmitsTheLongestRun`): the count and `SHORT`, or the error
and the tail rolled back to the snapshot, or to the head once the head has passed it; `FLAGS` then stays. -/
def Obligations.EnqueueKicksOrRollsBack : Prop :=
  ∀ (v : EnqueueLocals) (s : State), s.appSeq = .enqueue .e4 v →
    let res := (continueAction s).1
    let u := (continueAction s).2
    (isErr res = false → exec (.enqueue v.len) s = .next { u with
      flags := if v.n.toNat < v.len.toNat then s.flags ||| 0x01#8 else s.flags &&& 0xFE#8
      appSeq := .idle
      out := ⟨.app, v.n.setWidth 32, []⟩ :: s.out }) ∧
    (isErr res = true → exec (.enqueue v.len) s = .next { u with
      txTail := if ringDist s.txHead.toNat v.t.toNat s.params.txCap ≤ ringDist s.txHead.toNat s.txTail.toNat s.params.txCap
        then v.t else s.txHead
      appSeq := .idle
      out := ⟨.app, res, []⟩ :: s.out }) ∧
    (u.flags = s.flags ∧ u.txHead = s.txHead ∧ u.txTail = s.txTail ∧ (isErr res = true → u.txRun = false ∧ u.txLen = 0#24))

/-- R120 to R124: an ENQUEUE that nothing interrupts, from a state that meets the invariant, in its three outcomes: the engine was
Running (no call), the start succeeded, or it failed (the call's bytes are un-accepted). -/
def Obligations.UninterruptedEnqueue : Prop :=
  ∀ (len : Idx) (src : List Byte) (s : State) (rest : List Input), Inv s → s.appSeq = .idle → s.inited = true →
    src.length = len.toNat →
    s.inputs = .app (encode (.enqueue len)) src :: .appStep :: .appStep :: .appStep :: rest →
    let n := min len.toNat (txFree s.params s.txHead s.txTail)
    let tail := ringAdd s.txTail.toNat n s.params.txCap
    let run := runLen s.params s.txHead (idxOf tail)
    n ≠ 0 →
    ∃ t, Sys2Proof.core.run 4 s = .next t ∧ t.appSeq = .idle ∧ t.inputs = rest ∧ t.txHead = s.txHead ∧
      (∀ i < n, some (readByte .txBuf t.txBuf (ringAdd s.txTail.toNat i s.params.txCap)) = src[i]?) ∧
      (∀ a, (∀ i < n, a ≠ ringAdd s.txTail.toNat i s.params.txCap) →
        readByte .txBuf t.txBuf a = readByte .txBuf s.txBuf a) ∧
      t.rxBuf = s.rxBuf ∧ t.rxHead = s.rxHead ∧ t.rxTail = s.rxTail ∧ t.inited = s.inited ∧ t.caps = s.caps ∧
      (s.txRun = true → t.txTail.toNat = tail ∧ t.txRun = true ∧ t.txLen = s.txLen ∧ t.calls = s.calls ∧
        t.env = s.env ∧ t.out = ⟨.app, BitVec.ofNat 32 n, []⟩ :: s.out ∧ shortOf t.flags = decide (n < len.toNat)) ∧
      (s.txRun = false → isErr s.choice.resp = false → t.txTail.toNat = tail ∧ t.txRun = true ∧ t.txLen.toNat = run ∧
        t.calls = ⟨.startTx, s.txHead, idxOf run, s.choice.resp⟩ :: s.calls ∧
        t.out = ⟨.app, BitVec.ofNat 32 n, []⟩ :: s.out ∧ shortOf t.flags = decide (n < len.toNat)) ∧
      (s.txRun = false → isErr s.choice.resp = true → t.txTail = s.txTail ∧ t.txRun = false ∧ t.txLen = 0#24 ∧
        t.calls = ⟨.startTx, s.txHead, idxOf run, s.choice.resp⟩ :: s.calls ∧
        t.out = ⟨.app, s.choice.resp, []⟩ :: s.out ∧ t.flags = s.flags)

/-- R123, R124: ContinueAction is a no-op when Running or when nothing is queued; else it submits the longest contiguous run from the
head: `TXLEN`, `TXRUN` are written, `Cap.startTx` is called, and on an error the pair is undone. CONTINUE is that action with its
result on the APP port. -/
def Obligations.ContinueSubmitsTheLongestRun : Prop :=
  (∀ s : State,
    (s.txRun = true ∨ s.txHead = s.txTail → continueAction s = (0#32, s)) ∧
    (s.txRun = false → s.txHead ≠ s.txTail →
      let len := idxOf (if s.txHead.toNat < s.txTail.toNat then s.txTail.toNat - s.txHead.toNat
        else s.params.txCap - s.txHead.toNat)
      let call := capStartTx s.txHead len { s with txLen := len, txRun := true }
      (isErr call.1 = true → continueAction s = (call.1, { call.2 with txRun := false, txLen := 0#24 })) ∧
      (isErr call.1 = false → continueAction s = (0#32, call.2)))) ∧
  (∀ s : State, s.appSeq = .idle → s.inited = false →
    exec .cont s = .next { s with out := ⟨.app, 0xFFFFFFFB#32, []⟩ :: s.out }) ∧
  (∀ s : State, s.appSeq = .idle → s.inited = true →
    exec .cont s = .next { (continueAction s).2 with out := ⟨.app, (continueAction s).1, []⟩ :: s.out })

/-- R123: "calling CONTINUE twice with no event between is a no-op the second time if the first returned `Ok`". -/
def Obligations.ContinueTwiceIsOnce : Prop :=
  ∀ s t : State, exec .cont s = .next t → t.out = ⟨.app, 0#32, []⟩ :: s.out →
    exec .cont t = .next { t with out := ⟨.app, 0#32, []⟩ :: t.out }

/-- R125: TX_COMPLETE advances the head by the committed length, leaves Running and chains the next run; its result is
ContinueAction's. Uninitialised it is `NotInitialized`, in Idle `Ok` with no effect. -/
def Obligations.TxCompleteCreditsAndChains : Prop :=
  ∀ s : State,
    (s.inited = false → exec .txComplete s = .next { s with out := ⟨.irq, 0xFFFFFFFB#32, []⟩ :: s.out }) ∧
    (s.inited = true → s.txRun = false → exec .txComplete s = .next { s with out := ⟨.irq, 0#32, []⟩ :: s.out }) ∧
    (s.inited = true → s.txRun = true →
      let u := { s with
        txHead := idxOf ((s.txHead.toNat + s.txLen.toNat) % s.params.txCap), txRun := false, txLen := 0#24 }
      exec .txComplete s = .next { (continueAction u).2 with out := ⟨.irq, (continueAction u).1, []⟩ :: s.out })

/-- R127: a TX_COMPLETE that finds `TXRUN = 0` is ignored: result `Ok`, no register written, nothing started. -/
def Obligations.SpuriousCompletionIsIgnored : Prop :=
  ∀ s : State, s.inited = true → s.txRun = false →
    exec .txComplete s = .next { s with out := ⟨.irq, 0#32, []⟩ :: s.out }

/-- R126: ABORT_TX resets the transmit pair, always calls `Cap.abortTx`, and leaves head and tail; the reset stays when the abort
fails. -/
def Obligations.AbortTxKeepsTheQueue : Prop :=
  ∀ s : State, s.appSeq = .idle →
    let call := capAbortTx { s with txRun := false, txLen := 0#24 }
    (s.inited = false → exec .abortTx s = .next { s with out := ⟨.app, 0xFFFFFFFB#32, []⟩ :: s.out }) ∧
    (s.inited = true → exec .abortTx s = .next { call.2 with
      out := ⟨.app, if isErr call.1 then call.1 else 0#32, []⟩ :: s.out }) ∧
    call.2.txHead = s.txHead ∧ call.2.txTail = s.txTail ∧ call.2.txRun = false ∧ call.2.txLen = 0#24

/-- R124, R245, R291: a step whose `Cap.startTx` failed leaves no commitment: Idle, `TXLEN = 0`, the head where it was (in TX_COMPLETE
where the finished run left it), and the error is the result. -/
def Obligations.FailedStartCommitsNothing : Prop :=
  ∀ (i : Instr) (s t : State) (off len : Idx) (r : Word), exec i s = .next t →
    t.calls = ⟨.startTx, off, len, r⟩ :: s.calls → isErr r = true →
    t.txRun = false ∧ t.txLen = 0#24 ∧ t.out = ⟨i.port, r, []⟩ :: s.out ∧
    t.txHead = (if i = .txComplete then idxOf (ringAdd s.txHead.toNat s.txLen.toNat s.params.txCap) else s.txHead)

/-! ## Receive -/

/-- R153, R154, R162: IDLE_LINE and RX_HALF set `RXTAIL` to `add(RXORG, RXSIZE - r, RX_CAP)` for the `r` that `Cap.rxRemaining()`
answers, and nothing else. -/
def Obligations.RefreshDerivesTheTail : Prop :=
  ∀ (i : Instr) (s : State), i = .idleLine ∨ i = .rxHalf →
    let call := capRxRemaining s
    (s.inited = false → exec i s = .next { s with out := ⟨.irq, 0xFFFFFFFB#32, []⟩ :: s.out }) ∧
    (s.inited = true → call.1.toNat ≤ s.rxSize.toNat →
      exec i s = .next { call.2 with
        rxTail := idxOf ((s.rxOrg.toNat + (s.rxSize.toNat - call.1.toNat)) % s.params.rxCap)
        out := ⟨.irq, 0#32, []⟩ :: s.out })

/-- R154: with a batch armed a second refresh in a row changes nothing but the record of results and calls. -/
def Obligations.RefreshTwiceIsOnce : Prop :=
  ∀ (i : Instr) (s t : State), i = .idleLine ∨ i = .rxHalf → s.inited = true → s.env.rxBatch ≠ none →
    exec i s = .next t →
    ∃ c, exec i t = .next { t with calls := c :: t.calls, out := ⟨.irq, 0#32, []⟩ :: t.out }

/-- R161: no `RXTAIL` is computed from an `r` above `RXSIZE`: the run stops. -/
def Obligations.RemainingOutOfRangeStops : Prop :=
  ∀ (i : Instr) (s : State), s.inited = true → s.rxSize.toNat < (capRxRemaining s).1.toNat →
    (i = .idleLine ∨ i = .rxHalf ∨ i = .rxComplete ∨ (∃ m, i = .read m ∧ s.appSeq = .idle)) →
    exec i s = .fault .rxRemainingOutOfRange

/-- R158, R159: RX_COMPLETE refreshes; with bytes remaining that is all; at a batch boundary it rearms from the old batch's end over the
whole buffer, and a failed rearm leaves origin and size and returns the error. -/
def Obligations.RxCompleteRearmsAtTheBoundary : Prop :=
  ∀ s : State,
    let call := capRxRemaining s
    let u := { call.2 with
      rxTail := idxOf ((s.rxOrg.toNat + (s.rxSize.toNat - call.1.toNat)) % s.params.rxCap) }
    let org := idxOf ((s.rxOrg.toNat + s.rxSize.toNat) % s.params.rxCap)
    let arm := capStartRx org (idxOf s.params.rxCap) u
    (s.inited = false → exec .rxComplete s = .next { s with out := ⟨.irq, 0xFFFFFFFB#32, []⟩ :: s.out }) ∧
    (s.inited = true → call.1.toNat ≤ s.rxSize.toNat → call.1 ≠ 0#32 → exec .rxComplete s = .next { u with out := ⟨.irq, 0#32, []⟩ :: s.out }) ∧
    (s.inited = true → call.1 = 0#32 → isErr arm.1 = true →
      exec .rxComplete s = .next { arm.2 with out := ⟨.irq, arm.1, []⟩ :: s.out }) ∧
    (s.inited = true → call.1 = 0#32 → isErr arm.1 = false →
      exec .rxComplete s = .next { arm.2 with
        rxOrg := org, rxSize := idxOf s.params.rxCap, out := ⟨.irq, 0#32, []⟩ :: s.out })

/-- R163 (d), R287: `Cap.startRx` is called only by INIT and by an RX_COMPLETE that finds nothing remaining; and after a rearm that
succeeded a duplicated RX_COMPLETE only refreshes. -/
def Obligations.RearmOncePerBoundary : Prop :=
  (∀ (i : Instr) (s t : State) (new : List CapCall), exec i s = .next t → NewCalls s t new →
    (∃ c ∈ new, c.cap = .startRx) →
    (∃ m, i = .init m ∧ s.inited = false) ∨ (i = .rxComplete ∧ (capRxRemaining s).1 = 0#32)) ∧
  (∀ (s t : State) (c : CapCall), Inv s → s.inited = true → exec .rxComplete s = .next t →
    t.calls.head? = some c → c.cap = .startRx → isErr c.resp = false →
    ∃ d, d.cap = .rxRemaining ∧
      exec .rxComplete t = .next { t with calls := d :: t.calls, out := ⟨.irq, 0#32, []⟩ :: t.out })

/-- R155: READ's step R1 refreshes the tail, and READ stands at R2. -/
def Obligations.ReadRefreshesFirst : Prop :=
  ∀ (maxLen : Idx) (s : State), s.appSeq = .idle →
    let call := capRxRemaining s
    (s.inited = false → exec (.read maxLen) s = .next { s with out := ⟨.app, 0xFFFFFFFB#32, []⟩ :: s.out }) ∧
    (s.inited = true → call.1.toNat ≤ s.rxSize.toNat →
      exec (.read maxLen) s = .next { call.2 with
        rxTail := idxOf ((s.rxOrg.toNat + (s.rxSize.toNat - call.1.toNat)) % s.params.rxCap)
        appSeq := .readR2 maxLen })

/-- R156, R71: R2 counts `min(MAXLEN, rxAvail)`, ending at once with 0 and `SHORT` when there is nothing to copy; R3 copies the bytes at
`add(h, i, RX_CAP)` for `i < n`, in that order. -/
def Obligations.ReadCountsThenCopies : Prop :=
  (∀ (maxLen : Idx) (s : State), s.appSeq = .readR2 maxLen →
    let n := min maxLen.toNat (rxAvail s.params s.rxHead s.rxTail)
    (n = 0 → exec (.read maxLen) s = .next { s with
      flags := if 0 < maxLen.toNat then s.flags ||| 0x01#8 else s.flags &&& 0xFE#8
      appSeq := .idle
      out := ⟨.app, 0#32, []⟩ :: s.out }) ∧
    (n ≠ 0 → exec (.read maxLen) s = .next { s with appSeq := .readR3 maxLen s.rxHead (idxOf n) })) ∧
  (∀ (maxLen h n : Idx) (s : State), Inv s → s.appSeq = .readR3 maxLen h n →
    ∃ dst, exec (.read maxLen) s = .next { s with appSeq := .readR4 maxLen h n dst } ∧ dst.length = n.toNat ∧
      ∀ i < n.toNat, dst[i]? = some (readByte .rxBuf s.rxBuf (ringAdd h.toNat i s.params.rxCap)))

/-- R157: READ's step R4 advances the head by the copied count, sets `SHORT`, and returns the count with the bytes. -/
def Obligations.ReadReleasesThenAnswers : Prop :=
  ∀ (maxLen h n : Idx) (dst : List Byte) (s : State), s.appSeq = .readR4 maxLen h n dst →
    exec (.read maxLen) s = .next { s with
      rxHead := idxOf ((h.toNat + n.toNat) % s.params.rxCap)
      flags := if n.toNat < maxLen.toNat then s.flags ||| 0x01#8 else s.flags &&& 0xFE#8
      appSeq := .idle
      out := ⟨.app, n.setWidth 32, dst⟩ :: s.out }

/-- R155 to R157: a READ that nothing interrupts, from a state that meets the invariant, hands out the oldest unread bytes up to ENV's
front and moves the head past them. -/
def Obligations.UninterruptedRead : Prop :=
  ∀ (maxLen : Idx) (src : List Byte) (s : State) (rest : List Input), Inv s → s.appSeq = .idle → s.inited = true →
    s.inputs = .app (encode (.read maxLen)) src :: .appStep :: .appStep :: .appStep :: rest →
    let n := min maxLen.toNat (unreadCount s)
    n ≠ 0 →
    ∃ t, Sys2Proof.core.run 4 s = .next t ∧ t.appSeq = .idle ∧ t.inputs = rest ∧ t.rxTail.toNat = rxFront s ∧
      t.rxHead.toNat = ringAdd s.rxHead.toNat n s.params.rxCap ∧
      t.out = ⟨.app, BitVec.ofNat 32 n, (unreadBytes s).take n⟩ :: s.out ∧
      shortOf t.flags = decide (n < maxLen.toNat) ∧ t.rxBuf = s.rxBuf ∧ t.txBuf = s.txBuf ∧ t.txHead = s.txHead ∧
      t.txTail = s.txTail ∧ t.txRun = s.txRun ∧ t.txLen = s.txLen ∧ t.env = s.env ∧ t.inited = s.inited

/-- R163 (e): a READ returns at most `min(MAXLEN, RX_CAP - 1)` bytes, and as many as its result says. -/
def Obligations.ReadCountIsBounded : Prop :=
  ∀ (maxLen h n : Idx) (dst : List Byte) (s : State), Inv s → s.appSeq = .readR4 maxLen h n dst →
    ∃ t v, exec (.read maxLen) s = .next t ∧ t.out = ⟨.app, v, dst⟩ :: s.out ∧ v.toNat = dst.length ∧
      v.toNat ≤ min maxLen.toNat (s.params.rxCap - 1)

/-! ## The environment -/

/-- R211, R212, R213: the receive capabilities. `startRx` arms on success and changes nothing of ENV on failure; `rxRemaining` answers
`rem` and has no effect on ENV; `abortRx` on success disarms and clears the three receive events. None touches the block. (That a failed
`abortRx`, after which R213 calls ENV's state unspecified, takes back nothing that has reached the wire or the line is the model's
reading, entry 8.) -/
def Obligations.ReceiveCapabilities : Prop :=
  (∀ (off len : Idx) (s : State), capStartRx off len s = (s.choice.resp, { s with
    env := if isErr s.choice.resp then s.env else { s.env with rxBatch := some ⟨off, len, len⟩ }
    calls := ⟨.startRx, off, len, s.choice.resp⟩ :: s.calls
    script := s.script.tail, freeCtr := s.freeCtr + 1 })) ∧
  (∀ (s : State) (b : Batch), s.env.rxBatch = some b → capRxRemaining s = (b.rem.setWidth 32, { s with
    calls := ⟨.rxRemaining, 0#24, 0#24, b.rem.setWidth 32⟩ :: s.calls })) ∧
  (∀ s : State, isErr s.choice.resp = false → capAbortRx s = (s.choice.resp, { s with
    env := { s.env with
      rxBatch := none, pend := ⟨s.env.pend.txComplete, false, false, false⟩ }
    calls := ⟨.abortRx, 0#24, 0#24, s.choice.resp⟩ :: s.calls
    script := s.script.tail, freeCtr := s.freeCtr + 1 })) ∧
  (∀ s : State, ∃ e : Env, capAbortRx s = (s.choice.resp, { s with
      env := e
      calls := ⟨.abortRx, 0#24, 0#24, s.choice.resp⟩ :: s.calls
      script := s.script.tail, freeCtr := s.freeCtr + 1 }) ∧
    s.env.txWire <+: e.txWire ∧ s.env.rxLine <+: e.rxLine)

/-- R214, R216: the transmit capabilities. `startTx` with no run in flight puts one in flight on success and changes nothing of ENV on
failure; `abortTx` on success puts some prefix of the run on the wire and leaves neither run nor completion, and with no run in flight
it always succeeds. (The model's readings: a completion already pending is cleared too, entry 7; a failed `abortTx`, after which
R216 and U5 call ENV's state unspecified, keeps the armed batch, as R151 says, and the line, and takes back nothing from the wire,
entry 8; a run that ends past `TXBUF`, entry 23.) -/
def Obligations.TransmitCapabilities : Prop :=
  (∀ (off len : Idx) (s : State), s.env.txRun = none → capStartTx off len s = (s.choice.resp, { s with
    env := if isErr s.choice.resp then s.env else { s.env with txRun := some ⟨off, len⟩ }
    calls := ⟨.startTx, off, len, s.choice.resp⟩ :: s.calls
    script := s.script.tail, freeCtr := s.freeCtr + 1 })) ∧
  (∀ s : State, s.env.txRun = none → isErr (capAbortTx s).1 = false) ∧
  (∀ s : State, isErr (capAbortTx s).1 = false →
    ∃ sent, sent <+: runBytes s ∧ capAbortTx s = ((capAbortTx s).1, { s with
      env := { s.env with
        txRun := none, pend := { s.env.pend with txComplete := false }, txWire := s.env.txWire ++ sent }
      calls := ⟨.abortTx, 0#24, 0#24, (capAbortTx s).1⟩ :: s.calls
      script := s.script.tail, freeCtr := s.freeCtr + 1 })) ∧
  (∀ s : State, (∃ r, s.env.txRun = some r) → (capAbortTx s).1 = s.choice.resp) ∧
  (∀ s : State, ∃ e : Env, capAbortTx s = ((capAbortTx s).1, { s with
      env := e
      calls := ⟨.abortTx, 0#24, 0#24, (capAbortTx s).1⟩ :: s.calls
      script := s.script.tail, freeCtr := s.freeCtr + 1 }) ∧
    e.rxBatch = s.env.rxBatch ∧ e.rxLine = s.env.rxLine ∧ s.env.txWire <+: e.txWire)

/-- R219, R211, R215, R217, R218: ENV's actions as steps, each changing nothing else. -/
def Obligations.EnvironmentActions : Prop :=
  ∀ (s : State) (rest : List Input),
    (∀ b, s.inputs = .env (.rx b) :: rest →
      (s.env.rxBatch = none ∨ ∃ x, s.env.rxBatch = some x ∧ x.rem = 0#24) → step s = .next { s with inputs := rest }) ∧
    (∀ r, s.inputs = .env .txdone :: rest → s.env.txRun = some r → r.off.toNat + r.len.toNat ≤ s.params.txCap →
      step s = .next { s with
        inputs := rest
        env := { s.env with
          txWire := s.env.txWire ++ memRead .txBuf s.txBuf r.off.toNat r.len.toNat
          txRun := none
          pend := { s.env.pend with txComplete := true } } }) ∧
    (s.inputs = .env .idle :: rest →
      step s = .next { s with inputs := rest, env := { s.env with pend := { s.env.pend with idleLine := true } } }) ∧
    (s.inputs = .env .half :: rest → s.env.rxBatch ≠ none →
      step s = .next { s with inputs := rest, env := { s.env with pend := { s.env.pend with rxHalf := true } } }) ∧
    (∀ k, s.inputs = .env (.tick k) :: rest →
      step s = .next { s with inputs := rest, env := { s.env with now := s.env.now + BitVec.ofNat 32 k } })

/-- R211: a byte that arrives while bytes remain is stored at `off + (len - rem)` and nowhere else, then counted down, then appended to
the line; the last one raises RX_COMPLETE. (For `rem > len`, which R212 excludes and only a failed `Cap.abortRx` leaves, that the slot
is `off` is the model's choice, entry 24.) -/
def Obligations.ArrivalStoresOneByte : Prop :=
  ∀ (s : State) (rest : List Input) (b : Byte) (x : Batch), s.inputs = .env (.rx b) :: rest →
    s.env.rxBatch = some x → 0 < x.rem.toNat →
    let slot := x.off.toNat + (x.len.toNat - x.rem.toNat)
    slot < s.params.rxCap →
    ∃ m : Memory, step s = .next { s with
        inputs := rest
        rxBuf := m
        env := { s.env with
          rxBatch := some { x with rem := idxOf (x.rem.toNat - 1) }
          rxLine := s.env.rxLine ++ [b]
          pend := { s.env.pend with rxComplete := s.env.pend.rxComplete || decide (x.rem.toNat = 1) } } } ∧
      readByte .rxBuf m slot = b ∧ (∀ a, a ≠ slot → readByte .rxBuf m a = readByte .rxBuf s.rxBuf a) ∧
      (s.rxBuf.wf s.params.rxCap → m.wf s.params.rxCap)

/-- R242: a negative response of a start or abort call is the result, unchanged; TEARDOWN, which makes two calls, reports the first. -/
def Obligations.CapabilityErrorsPassThrough : Prop :=
  ∀ (i : Instr) (s t : State) (new : List CapCall) (c : CapCall), exec i s = .next t → NewCalls s t new →
    c ∈ new → c.hasResult → isErr c.resp = true →
    (i ≠ .teardown → t.out = ⟨i.port, c.resp, []⟩ :: s.out) ∧
    (i = .teardown → t.out = ⟨.app, c.resp, []⟩ :: s.out ∨
      (c.cap = .abortRx ∧ ∃ d ∈ new, d.cap = .abortTx ∧ isErr d.resp = true ∧ t.out = ⟨.app, d.resp, []⟩ :: s.out))

/-! ## Who writes what -/

/-- R35, R42: the table of writers. A register changes only in an operation that may write it, and in INIT only before any engine
activity, while `INITED = 0`. -/
def Obligations.SingleWriterTable : Prop :=
  ∀ (i : Instr) (s t : State), exec i s = .next t →
    (t.txHead ≠ s.txHead → (∃ m, i = .init m ∧ s.inited = false ∧ t.txHead = 0#24) ∨ i = .txComplete) ∧
    (t.txTail ≠ s.txTail → (∃ m, i = .init m ∧ s.inited = false) ∨ ∃ len, i = .enqueue len) ∧
    (t.txRun ≠ s.txRun ∨ t.txLen ≠ s.txLen →
      (∃ m, i = .init m ∧ s.inited = false) ∨ (∃ len, i = .enqueue len) ∨ i = .cont ∨ i = .abortTx ∨ i = .teardown ∨ i = .txComplete) ∧
    (t.rxHead ≠ s.rxHead → (∃ m, i = .init m ∧ s.inited = false) ∨ ∃ m, i = .read m) ∧
    (t.rxTail ≠ s.rxTail →
      (∃ m, i = .init m ∧ s.inited = false) ∨ (∃ m, i = .read m ∧ s.appSeq = .idle) ∨ i = .idleLine ∨ i = .rxHalf ∨ i = .rxComplete) ∧
    (t.rxOrg ≠ s.rxOrg ∨ t.rxSize ≠ s.rxSize → (∃ m, i = .init m ∧ s.inited = false) ∨ i = .rxComplete) ∧
    (t.inited ≠ s.inited → (∃ m, i = .init m ∧ s.inited = false) ∨ i = .teardown) ∧
    (t.caps ≠ s.caps → ∃ m, i = .init m ∧ s.inited = false) ∧
    (t.flags ≠ s.flags → (∃ m, i = .init m ∧ s.inited = false) ∨ (∃ len, i = .enqueue len) ∨ ∃ m, i = .read m)

/-- R22, R23, R150: the block never writes `RXBUF`, and `TXBUF` only in ENQUEUE's step E2; no operation changes the parameters. -/
def Obligations.BuffersHaveOneWriter : Prop :=
  ∀ (i : Instr) (s t : State), exec i s = .next t →
    t.rxBuf = s.rxBuf ∧ t.params = s.params ∧
    (t.txBuf ≠ s.txBuf → ∃ len v, i = .enqueue len ∧ s.appSeq = .enqueue .e2 v)

/-- R252, R253, R36: an IRQ operation, wherever APP stands, leaves `APPSEQ`, `TXTAIL`, `RXHEAD`, `FLAGS`, `INITED` and both buffers
alone, and ends with its one result on the IRQ port. -/
def Obligations.IrqStepsLeaveAppAlone : Prop :=
  ∀ (i : Instr) (s t : State), i.port = .irq → exec i s = .next t →
    t.appSeq = s.appSeq ∧ t.txTail = s.txTail ∧ t.rxHead = s.rxHead ∧ t.flags = s.flags ∧ t.inited = s.inited ∧
    t.txBuf = s.txBuf ∧ t.rxBuf = s.rxBuf ∧ t.caps = s.caps ∧ ∃ v, t.out = ⟨.irq, v, []⟩ :: s.out

/-- R40 (e), R293: while a run is committed no operation writes a byte of it. -/
def Obligations.CommittedRunIsNotWritten : Prop :=
  ∀ (i : Instr) (s t : State), Inv s → s.inited = true → s.txRun = true → exec i s = .next t →
    ∀ k < s.txLen.toNat, readByte .txBuf t.txBuf (s.txHead.toNat + k) = readByte .txBuf s.txBuf (s.txHead.toNat + k)

/-- R72, R211, R214: every run the block starts is non-empty, lies inside `TXBUF`, starts at the head and is as long as `TXLEN` if it
was accepted; every batch is `(0, RX_CAP)`. -/
def Obligations.StartsAreInRange : Prop :=
  ∀ (i : Instr) (s t : State) (new : List CapCall) (c : CapCall), Inv s → exec i s = .next t → NewCalls s t new → c ∈ new →
    (c.cap = .startTx → 1 ≤ c.len.toNat ∧ c.off.toNat + c.len.toNat ≤ s.params.txCap ∧ c.off = t.txHead ∧
      (isErr c.resp = false → t.txRun = true ∧ t.txLen = c.len)) ∧
    (c.cap = .startRx → c.off = 0#24 ∧ c.len.toNat = s.params.rxCap)

/-- R129 (b): from a state where block and ENV agree, a step calls `Cap.startTx` only with no run in flight, the step that takes a
completion and chains the next run among them. -/
def Obligations.NoStartWhileARunIsInFlight : Prop :=
  ∀ (s t : State) (new : List CapCall), TxCoupled s → NoStrayIrq s → step s = .next t → NewCalls s t new →
    (∃ c ∈ new, c.cap = .startTx) → s.env.txRun = none

/-! ## Arithmetic -/

/-- R9, R10: `add` and `dist` stay below the capacity and undo each other; `txUsed + txFree = TX_CAP - 1`; empty exactly when head and tail
agree; a run is non-empty, queued and contiguous. -/
def Obligations.RingArithmetic : Prop :=
  ∀ (p : Params) (h t : Idx) (k : Nat), p.WellFormed → h.toNat < p.txCap → t.toNat < p.txCap →
    ringAdd h.toNat k p.txCap < p.txCap ∧ ringDist h.toNat t.toNat p.txCap < p.txCap ∧
    ringAdd h.toNat (ringDist h.toNat t.toNat p.txCap) p.txCap = t.toNat ∧
    (k < p.txCap → ringDist h.toNat (ringAdd h.toNat k p.txCap) p.txCap = k) ∧
    txUsed p h t + txFree p h t = p.txCap - 1 ∧ (h = t ↔ txUsed p h t = 0) ∧
    (h ≠ t → 1 ≤ runLen p h t ∧ runLen p h t ≤ txUsed p h t ∧ h.toNat + runLen p h t ≤ p.txCap) ∧
    (h = t → runLen p h t = 0)

/-- R12: `elapsed` is `now - t0`, or `2^32 - t0 + now` once the clock has wrapped: the difference modulo `2^32` in both cases. -/
def Obligations.ElapsedWraps : Prop :=
  ∀ t0 now : Timestamp,
    (t0.toNat ≤ now.toNat → elapsed t0 now = now.toNat - t0.toNat) ∧
    (now.toNat < t0.toNat → elapsed t0 now = 2 ^ 32 - t0.toNat + now.toNat) ∧
    elapsed t0 now = (2 ^ 32 + now.toNat - t0.toNat) % 2 ^ 32 ∧ elapsed t0 now = (now - t0).toNat

/-! ## Invariants -/

/-- The invariants hold after reset, for every parameter choice in range and for the reset state itself. -/
def Obligations.ResetMeetsTheInvariants : Prop :=
  (∀ p : Params, p.WellFormed →
    Inv (State.resetWith p) ∧ TxCoupled (State.resetWith p) ∧ RxExact (State.resetWith p)) ∧
  Inv State.reset ∧ TxCoupled State.reset ∧ RxExact State.reset

/-- R39, R40 (b), (c), R37, R151, R182, R33: every step keeps the invariant. -/
def Obligations.StepKeepsInv : Prop :=
  ∀ s t : State, Inv s → step s = .next t → Inv t

/-- R40 (d): every step in which no abort returns an error keeps the agreement of the block's Tx state with ENV's run, as long as the
firmware issues no TX_COMPLETE that no event stands behind. -/
def Obligations.StepKeepsTxCoupling : Prop :=
  ∀ s t : State, Inv s → TxCoupled s → NoStrayIrq s → step s = .next t → AbortsOk s t → TxCoupled t

/-- R129 (c), step by step: in a step with no abort of a run and no rollback, what has reached the wire followed by what is queued and
unsent only grows, by exactly the bytes an ENQUEUE publishes; the step that initialises the block leaves nothing unsent and the wire as
it was. So from INIT on the wire carries the accepted bytes in order, none lost, none twice. -/
def Obligations.TransmittedStreamInOrder : Prop :=
  (∀ s t : State, Inv s → TxCoupled s → NoStrayIrq s → NoReset s → s.inited = true → step s = .next t → NoAborts s t →
    (t.txTail = s.txTail ∨ ∃ v, s.appSeq = .enqueue .e3 v) →
    t.env.txWire ++ unsentBytes t = s.env.txWire ++ unsentBytes s ++ publishedBytes s t) ∧
  (∀ s t : State, Inv s → s.inited = false → step s = .next t → t.inited = true →
    t.env.txWire = s.env.txWire ∧ unsentBytes t = [])

/-- R163 (c), R160, step by step: while no arrival finds the buffer full, the tail and READ's copy stay exact over every step (INIT,
TEARDOWN and the hardware reset among them), and what a READ of an Initialised block hands out is the oldest part of what has arrived
and not been handed out; the step that initialises the block leaves nothing unread. So from INIT on the caller gets the line's bytes
in order, none lost, none twice. -/
def Obligations.ReceivedStreamInOrder : Prop :=
  (∀ s t : State, Inv s → RxExact s → step s = .next t → ArrivalHasRoom s t → RxExact t) ∧
  (∀ s t : State, Inv s → RxExact s → NoReset s → s.inited = true → t.inited = true → step s = .next t → ArrivalHasRoom s t →
    ∃ arrived, t.env.rxLine = s.env.rxLine ++ arrived ∧
      handedBytes s t ++ unreadBytes t = unreadBytes s ++ arrived) ∧
  (∀ s t : State, Inv s → s.inited = false → step s = .next t → t.inited = true →
    t.env.rxLine = s.env.rxLine ∧ unreadBytes t = [])

/-- R41, R163 (b): ENV's front moves forward by exactly the bytes that arrive, across a rearm as well as within a batch, and a step
leaves `RXTAIL` or moves it to the front. -/
def Obligations.TailFollowsTheFront : Prop :=
  ∀ s t : State, Inv s → NoReset s → s.inited = true → t.inited = true → step s = .next t →
    rxFront t = ringAdd (rxFront s) (t.env.rxLine.length - s.env.rxLine.length) s.params.rxCap ∧
    (t.rxTail = s.rxTail ∨ t.rxTail.toNat = rxFront s)
end

