-- ==== Sys2Proof/Laws/Ring.lean ====
section
/-! SUPPORT. Ring arithmetic (spec/00_scope.md R9 to R12) on natural numbers and on index registers. -/

namespace Sys2Proof.Machine

theorem idxOf_toNat {n : Nat} (h : n < 2 ^ 24) : (idxOf n).toNat = n := by
  simpa [idxOf] using Nat.mod_eq_of_lt h

theorem idxOf_toNat_self (x : Idx) : idxOf x.toNat = x := by simp [idxOf]

theorem ringAdd_lt {a k c : Nat} (hc : 0 < c) : ringAdd a k c < c := Nat.mod_lt _ hc

theorem ringAdd_of_lt {a k c : Nat} (h : a + k < c) : ringAdd a k c = a + k := Nat.mod_eq_of_lt h

theorem ringAdd_of_ge {a k c : Nat} (h : c ≤ a + k) (h' : a + k < 2 * c) : ringAdd a k c = a + k - c := by
  rw [ringAdd, Nat.mod_eq_sub_mod h, Nat.mod_eq_of_lt (by omega)]

/-- `add` below twice the capacity, as one case distinction. -/
theorem ringAdd_cases {a k c : Nat} (ha : a < c) (hk : k ≤ c) :
    (a + k < c ∧ ringAdd a k c = a + k) ∨ (c ≤ a + k ∧ ringAdd a k c = a + k - c) := by
  by_cases h : a + k < c
  · exact .inl ⟨h, ringAdd_of_lt h⟩
  · exact .inr ⟨by omega, ringAdd_of_ge (by omega) (by omega)⟩

theorem ringAdd_zero {a c : Nat} (ha : a < c) : ringAdd a 0 c = a := Nat.mod_eq_of_lt (by simpa using ha)

theorem ringDist_self (a c : Nat) : ringDist a a c = 0 := by simp [ringDist]

theorem ringDist_lt {a b c : Nat} (ha : a < c) (hb : b < c) : ringDist a b c < c := by
  unfold ringDist; split <;> omega

theorem ringDist_eq_zero {a b c : Nat} (ha : a < c) : ringDist a b c = 0 ↔ a = b := by
  unfold ringDist; split <;> omega

/-- Going from `a` by `dist(a, b)` arrives at `b`. -/
theorem ringAdd_ringDist {a b c : Nat} (ha : a < c) (hb : b < c) : ringAdd a (ringDist a b c) c = b := by
  unfold ringDist
  split
  · rw [ringAdd_of_lt (by omega)]; omega
  · rw [ringAdd_of_ge (by omega) (by omega)]; omega

/-- `dist(a, add(a, k)) = k` for a count below the capacity. -/
theorem ringDist_ringAdd {a k c : Nat} (ha : a < c) (hk : k < c) : ringDist a (ringAdd a k c) c = k := by
  rcases ringAdd_cases ha (Nat.le_of_lt hk) with ⟨h, e⟩ | ⟨h, e⟩ <;> rw [e] <;> unfold ringDist <;> split <;> omega

/-- Moving the far end by `k` that still fit. -/
theorem ringDist_add_right {a b k c : Nat} (ha : a < c) (hb : b < c) (h : ringDist a b c + k < c) :
    ringDist a (ringAdd b k c) c = ringDist a b c + k := by
  have hk : k ≤ c := by omega
  rcases ringAdd_cases hb hk with ⟨h1, e⟩ | ⟨h1, e⟩ <;> rw [e] <;> unfold ringDist at * <;> split at h <;> split <;> omega

/-- Moving the near end by `k` that are there. -/
theorem ringDist_add_left {a b k c : Nat} (ha : a < c) (hb : b < c) (h : k ≤ ringDist a b c) :
    ringDist (ringAdd a k c) b c = ringDist a b c - k := by
  have hd := ringDist_lt ha hb
  rcases ringAdd_cases ha (show k ≤ c by omega) with ⟨h1, e⟩ | ⟨h1, e⟩ <;> rw [e] <;> unfold ringDist at * <;>
    split at h <;> split <;> omega

theorem seg1_add_seg2 (s n c : Nat) : seg1 s n c + seg2 s n c = n := by unfold seg2 seg1; omega

theorem seg1_le (s n c : Nat) : seg1 s n c ≤ n := by unfold seg1; omega

/-- A ring access from inside the buffer for at most its capacity is in range (spec/20_memory.md R63). -/
theorem ringInRange_of_lt {s n c : Nat} (hs : s < c) (hn : n ≤ c) : ringInRange s n c = true := by
  simp only [ringInRange, Bool.and_eq_true, decide_eq_true_eq]
  unfold seg2 seg1; omega

theorem elapsed_eq (t0 now : Timestamp) : elapsed t0 now = (now - t0).toNat := by
  have h0 := t0.isLt; have h1 := now.isLt
  rw [BitVec.toNat_sub]; unfold elapsed; split
  · rw [show 2 ^ 32 - t0.toNat + now.toNat = (now.toNat - t0.toNat) + 2 ^ 32 by omega, Nat.add_mod_right,
      Nat.mod_eq_of_lt (by omega)]
  · rw [Nat.mod_eq_of_lt (by omega)]

theorem isErr_codeWord_ok : isErr (codeWord .ok) = false := by decide

theorem isErr_countWord (n : Idx) : isErr (countWord n) = false := by
  simp [isErr, countWord]

theorem countWord_toNat (n : Idx) : (countWord n).toNat = n.toNat := by
  have := n.isLt
  simp only [countWord, BitVec.toNat_setWidth]
  exact Nat.mod_eq_of_lt (by omega)

end Sys2Proof.Machine
end

