-- ==== Sys2Proof/Laws/Memory.lean ====
section
/-! SUPPORT. The buffers: a read after a write gives the value written and leaves every other byte alone, and every operation keeps the
canonical form. -/

namespace Sys2Proof.Machine

theorem Memory.byte?_store_same (m : Memory) (a : Nat) (b : Byte) : (m.store a b).byte? a = some b := by
  induction m with
  | nil => simp [Memory.store, Memory.byte?]
  | cons cell rest ih =>
    obtain ⟨k, c⟩ := cell
    simp only [Memory.store]
    split
    · simp [Memory.byte?]
    · split
      · simp [Memory.byte?]
      · simp [Memory.byte?, *]

theorem Memory.byte?_store_other {m : Memory} {a a' : Nat} {b : Byte} (h : a' ≠ a) :
    (m.store a b).byte? a' = m.byte? a' := by
  induction m with
  | nil => simp [Memory.store, Memory.byte?, h]
  | cons cell rest ih =>
    obtain ⟨k, c⟩ := cell
    simp only [Memory.store]
    split
    · simp [Memory.byte?, h]
    · split
      · rename_i h1 h2; subst h2; simp [Memory.byte?, h]
      · simp [Memory.byte?, ih]

/-- Every cell of a memory after a store is the stored one or was there before. -/
theorem Memory.mem_store {m : Memory} {a : Nat} {b : Byte} {x : Host.Cell} (h : x ∈ m.store a b) : x = (a, b) ∨ x ∈ m := by
  induction m with
  | nil => simpa [Memory.store] using h
  | cons cell rest ih =>
    obtain ⟨k, c⟩ := cell
    simp only [Memory.store] at h
    split at h
    · rcases List.mem_cons.1 h with h | h
      · exact .inl h
      · exact .inr h
    · split at h
      · rcases List.mem_cons.1 h with h | h
        · exact .inl h
        · exact .inr (List.mem_cons_of_mem _ h)
      · rcases List.mem_cons.1 h with h | h
        · exact .inr (h ▸ List.mem_cons_self)
        · exact (ih h).imp_right (List.mem_cons_of_mem _)

/-- A store inside the space keeps the canonical form. -/
theorem Memory.store_wf {cap : Nat} {m : Memory} {a : Nat} {b : Byte} (hm : m.wf cap) (ha : a < cap) : (m.store a b).wf cap := by
  refine ⟨?_, fun x hx => (Memory.mem_store hx).elim (fun e => e ▸ ha) (hm.2 x)⟩
  obtain ⟨hp, -⟩ := hm
  induction m with
  | nil => simp [Memory.store]
  | cons cell rest ih =>
    obtain ⟨k, c⟩ := cell
    rw [List.pairwise_cons] at hp
    simp only [Memory.store]
    split
    · rename_i h
      refine List.pairwise_cons.2 ⟨fun x hx => ?_, List.pairwise_cons.2 hp⟩
      rcases List.mem_cons.1 hx with rfl | hx
      · exact h
      · exact Nat.lt_trans h (hp.1 x hx)
    · split
      · rename_i h; subst h; exact List.pairwise_cons.2 hp
      · refine List.pairwise_cons.2 ⟨fun x hx => ?_, ih hp.2⟩
        rcases Memory.mem_store hx with rfl | hx
        · show k < a; omega
        · exact hp.1 x hx

theorem memWrite_wf {cap : Nat} {m : Memory} {a : Nat} {v : List Byte} (hm : m.wf cap) (ha : a + v.length ≤ cap) :
    (memWrite m a v).wf cap := by
  induction v generalizing m a with
  | nil => exact hm
  | cons b bs ih =>
    simp only [List.length_cons] at ha
    exact ih (Memory.store_wf hm (by omega)) (by omega)

theorem ringWrite_wf {cap : Nat} {m : Memory} {s : Nat} {v : List Byte} (hm : m.wf cap)
    (h : ringInRange s v.length cap = true) : (ringWrite m s cap v).wf cap := by
  simp only [ringInRange, Bool.and_eq_true, decide_eq_true_eq] at h
  have hs := seg1_add_seg2 s v.length cap
  refine memWrite_wf (memWrite_wf hm ?_) ?_ <;> simp only [List.length_take, List.length_drop] <;> omega

theorem Memory.nil_wf (cap : Nat) : Memory.wf cap [] := ⟨List.Pairwise.nil, by simp⟩

theorem readByte_store (sp : Space) (m : Memory) (a a' : Nat) (b : Byte) :
    readByte sp (m.store a b) a' = if a' = a then b else readByte sp m a' := by
  unfold readByte
  split
  · rename_i h; subst h; rw [Memory.byte?_store_same]; rfl
  · rw [Memory.byte?_store_other ‹_›]

/-- Reading one byte after `MemWrite`. -/
theorem readByte_memWrite (sp : Space) (m : Memory) (a a' : Nat) (v : List Byte) :
    readByte sp (memWrite m a v) a' = if h : a ≤ a' ∧ a' - a < v.length then v[a' - a]'h.2 else readByte sp m a' := by
  induction v generalizing m a with
  | nil => simp [memWrite]
  | cons b bs ih =>
    rw [memWrite, ih, readByte_store]
    by_cases h : a' = a
    · subst h; simp
    · by_cases h2 : a + 1 ≤ a' ∧ a' - (a + 1) < bs.length
      · have h3 : a ≤ a' ∧ a' - a < (b :: bs).length := by simp only [List.length_cons]; omega
        rw [dif_pos h2, dif_pos h3, List.getElem_cons, dif_neg (by omega)]; rfl
      · have h3 : ¬ (a ≤ a' ∧ a' - a < (b :: bs).length) := by simp only [List.length_cons]; omega
        rw [dif_neg h2, dif_neg h3, if_neg h]

theorem memRead_length (sp : Space) (m : Memory) (a n : Nat) : (memRead sp m a n).length = n := by
  induction n generalizing a with
  | zero => rfl
  | succ n ih => simp [memRead, ih]

theorem memRead_getElem (sp : Space) (m : Memory) (a n i : Nat) (h : i < (memRead sp m a n).length) :
    (memRead sp m a n)[i] = readByte sp m (a + i) := by
  induction n generalizing a i with
  | zero => simp [memRead] at h
  | succ n ih =>
    cases i with
    | zero => simp [memRead]
    | succ i => simp only [memRead, List.getElem_cons_succ]; rw [ih]; congr 1; omega

theorem memRead_append (sp : Space) (m : Memory) (a n k : Nat) :
    memRead sp m a (n + k) = memRead sp m a n ++ memRead sp m (a + n) k := by
  induction n generalizing a with
  | zero => simp [memRead]
  | succ n ih => rw [show n + 1 + k = (n + k) + 1 by omega]; simp only [memRead, List.cons_append, ih]; congr 3; omega

/-- Two memories that agree on the bytes read give the same bytes. -/
theorem memRead_congr {sp : Space} {m m' : Memory} {a n : Nat}
    (h : ∀ i < n, readByte sp m (a + i) = readByte sp m' (a + i)) : memRead sp m a n = memRead sp m' a n := by
  induction n generalizing a with
  | zero => rfl
  | succ n ih =>
    simp only [memRead]
    rw [show readByte sp m a = readByte sp m' a from h 0 (by omega), ih]
    intro i hi
    have := h (i + 1) (by omega)
    rwa [show a + (i + 1) = a + 1 + i by omega] at this

theorem ringRead_length (sp : Space) (m : Memory) (s n c : Nat) : (ringRead sp m s n c).length = n := by
  simp [ringRead, memRead_length, seg1_add_seg2]

/-- `dst[i]` is the byte at address `add(h, i, C)` (spec/20_memory.md R71). -/
theorem ringRead_getElem {sp : Space} {m : Memory} {s n c i : Nat} (hs : s < c) (hn : n ≤ c)
    (h : i < (ringRead sp m s n c).length) : (ringRead sp m s n c)[i] = readByte sp m (ringAdd s i c) := by
  have hi : i < n := by simpa [ringRead_length] using h
  have h12 := seg1_add_seg2 s n c
  simp only [ringRead, List.getElem_append, memRead_length]
  split
  · rename_i h1
    rw [memRead_getElem, ringAdd_of_lt]
    unfold seg1 at h1; omega
  · rename_i h1
    rw [memRead_getElem]
    unfold seg1 at h1 ⊢
    rw [ringAdd_of_ge (by omega) (by omega)]; congr 1; omega

/-- A ring read is determined by the bytes at its addresses. -/
theorem ringRead_congr {sp : Space} {m m' : Memory} {s n c : Nat} (hs : s < c) (hn : n ≤ c)
    (h : ∀ i < n, readByte sp m (ringAdd s i c) = readByte sp m' (ringAdd s i c)) :
    ringRead sp m s n c = ringRead sp m' s n c := by
  apply List.ext_getElem
  · simp [ringRead_length]
  · intro i h1 h2
    rw [ringRead_getElem hs hn, ringRead_getElem hs hn]
    exact h i (by simpa [ringRead_length] using h1)

/-- A ring read of `n + k` bytes is the read of `n` and then the read of `k` from where that one ends. -/
theorem ringRead_append {sp : Space} {m : Memory} {s n k c : Nat} (hs : s < c) (hn : n + k ≤ c) :
    ringRead sp m s (n + k) c = ringRead sp m s n c ++ ringRead sp m (ringAdd s n c) k c := by
  apply List.ext_getElem
  · simp [ringRead_length]
  · intro i h1 h2
    have hi : i < n + k := by simpa [ringRead_length] using h1
    rw [ringRead_getElem hs hn, List.getElem_append]
    split
    · rw [ringRead_getElem hs (by omega)]
    · rename_i h3
      have h3 : n ≤ i := by simpa [ringRead_length] using h3
      rw [ringRead_getElem (ringAdd_lt (by omega)) (by omega)]
      simp only [ringRead_length]
      congr 1
      simp only [ringAdd]
      rw [Nat.mod_add_mod]
      congr 1; omega

theorem ringRead_contiguous {sp : Space} {m : Memory} {s n c : Nat} (h : s + n ≤ c) :
    ringRead sp m s n c = memRead sp m s n := by
  have h1 : seg1 s n c = n := by unfold seg1; omega
  simp [ringRead, seg2, h1, memRead]

/-- Reading one byte after the copy-in of spec/20_memory.md R70: `v[i]` at `add(s, i, C)`, the old byte elsewhere. -/
theorem readByte_ringWrite_in {sp : Space} {m : Memory} {s c : Nat} {v : List Byte} (hs : s < c) (hv : v.length ≤ c)
    {i : Nat} (hi : i < v.length) : readByte sp (ringWrite m s c v) (ringAdd s i c) = v[i] := by
  unfold ringWrite
  rw [readByte_memWrite]
  by_cases h : s + i < c
  · rw [ringAdd_of_lt h, readByte_memWrite]
    have hlt : i < seg1 s v.length c := by unfold seg1; omega
    have hnot : ¬ (0 ≤ s + i ∧ s + i - 0 < (v.drop (seg1 s v.length c)).length) := by
      simp only [List.length_drop]; unfold seg1; omega
    have hin : s ≤ s + i ∧ s + i - s < (v.take (seg1 s v.length c)).length := by
      simp only [List.length_take]; omega
    rw [dif_neg hnot, dif_pos hin]
    simp [List.getElem_take]
  · rw [ringAdd_of_ge (by omega) (by omega)]
    have hin : 0 ≤ s + i - c ∧ s + i - c - 0 < (v.drop (seg1 s v.length c)).length := by
      simp only [List.length_drop]; unfold seg1; omega
    rw [dif_pos hin]
    simp only [List.getElem_drop]
    congr 1
    unfold seg1; omega

theorem readByte_ringWrite_out {sp : Space} {m : Memory} {s c : Nat} {v : List Byte} (hs : s < c) (hv : v.length ≤ c)
    {a : Nat} (ha : ∀ i < v.length, a ≠ ringAdd s i c) : readByte sp (ringWrite m s c v) a = readByte sp m a := by
  unfold ringWrite
  have h1 : ¬ (0 ≤ a ∧ a - 0 < (v.drop (seg1 s v.length c)).length) := by
    intro ⟨_, h⟩
    simp only [List.length_drop] at h
    have hi : a + seg1 s v.length c < v.length := by omega
    refine ha _ hi ?_
    unfold seg1 at hi ⊢
    rw [ringAdd_of_ge (by omega) (by omega)]; omega
  have h2 : ¬ (s ≤ a ∧ a - s < (v.take (seg1 s v.length c)).length) := by
    intro ⟨h, h'⟩
    simp only [List.length_take] at h'
    unfold seg1 at h'
    refine ha (a - s) (by omega) ?_
    rw [ringAdd_of_lt (by omega)]; omega
  rw [readByte_memWrite, dif_neg h1, readByte_memWrite, dif_neg h2]

/-- Reading back what was just copied in. -/
theorem ringRead_ringWrite_same {sp : Space} {m : Memory} {s c : Nat} {v : List Byte} (hs : s < c) (hv : v.length ≤ c) :
    ringRead sp (ringWrite m s c v) s v.length c = v := by
  apply List.ext_getElem
  · simp [ringRead_length]
  · intro i h1 h2
    rw [ringRead_getElem hs hv, readByte_ringWrite_in hs hv]

end Sys2Proof.Machine
end

