-- ==== Sys2Proof/Laws/State.lean ====
section
/-! SUPPORT. What every named update of a state leaves in every field, one lemma per field, all by `rfl` and in the simp set. -/

namespace Sys2Proof.Machine

variable (s : State)

/-! `State.answerApp` -/

@[simp] theorem State.answerApp_params (v : Word) (dst : List Byte) : (s.answerApp v dst).params = s.params := rfl
@[simp] theorem State.answerApp_txBuf (v : Word) (dst : List Byte) : (s.answerApp v dst).txBuf = s.txBuf := rfl
@[simp] theorem State.answerApp_rxBuf (v : Word) (dst : List Byte) : (s.answerApp v dst).rxBuf = s.rxBuf := rfl
@[simp] theorem State.answerApp_txHead (v : Word) (dst : List Byte) : (s.answerApp v dst).txHead = s.txHead := rfl
@[simp] theorem State.answerApp_txTail (v : Word) (dst : List Byte) : (s.answerApp v dst).txTail = s.txTail := rfl
@[simp] theorem State.answerApp_txRun (v : Word) (dst : List Byte) : (s.answerApp v dst).txRun = s.txRun := rfl
@[simp] theorem State.answerApp_txLen (v : Word) (dst : List Byte) : (s.answerApp v dst).txLen = s.txLen := rfl
@[simp] theorem State.answerApp_rxHead (v : Word) (dst : List Byte) : (s.answerApp v dst).rxHead = s.rxHead := rfl
@[simp] theorem State.answerApp_rxTail (v : Word) (dst : List Byte) : (s.answerApp v dst).rxTail = s.rxTail := rfl
@[simp] theorem State.answerApp_rxOrg (v : Word) (dst : List Byte) : (s.answerApp v dst).rxOrg = s.rxOrg := rfl
@[simp] theorem State.answerApp_rxSize (v : Word) (dst : List Byte) : (s.answerApp v dst).rxSize = s.rxSize := rfl
@[simp] theorem State.answerApp_inited (v : Word) (dst : List Byte) : (s.answerApp v dst).inited = s.inited := rfl
@[simp] theorem State.answerApp_caps (v : Word) (dst : List Byte) : (s.answerApp v dst).caps = s.caps := rfl
@[simp] theorem State.answerApp_flags (v : Word) (dst : List Byte) : (s.answerApp v dst).flags = s.flags := rfl
@[simp] theorem State.answerApp_appSeq (v : Word) (dst : List Byte) : (s.answerApp v dst).appSeq = .idle := rfl
@[simp] theorem State.answerApp_env (v : Word) (dst : List Byte) : (s.answerApp v dst).env = s.env := rfl
@[simp] theorem State.answerApp_appSrc (v : Word) (dst : List Byte) : (s.answerApp v dst).appSrc = s.appSrc := rfl
@[simp] theorem State.answerApp_out (v : Word) (dst : List Byte) : (s.answerApp v dst).out = ⟨.app, v, dst⟩ :: s.out := rfl
@[simp] theorem State.answerApp_calls (v : Word) (dst : List Byte) : (s.answerApp v dst).calls = s.calls := rfl
@[simp] theorem State.answerApp_inputs (v : Word) (dst : List Byte) : (s.answerApp v dst).inputs = s.inputs := rfl
@[simp] theorem State.answerApp_script (v : Word) (dst : List Byte) : (s.answerApp v dst).script = s.script := rfl
@[simp] theorem State.answerApp_freeCtr (v : Word) (dst : List Byte) : (s.answerApp v dst).freeCtr = s.freeCtr := rfl

/-! `State.answerIrq` -/

@[simp] theorem State.answerIrq_params (v : Word) : (s.answerIrq v).params = s.params := rfl
@[simp] theorem State.answerIrq_txBuf (v : Word) : (s.answerIrq v).txBuf = s.txBuf := rfl
@[simp] theorem State.answerIrq_rxBuf (v : Word) : (s.answerIrq v).rxBuf = s.rxBuf := rfl
@[simp] theorem State.answerIrq_txHead (v : Word) : (s.answerIrq v).txHead = s.txHead := rfl
@[simp] theorem State.answerIrq_txTail (v : Word) : (s.answerIrq v).txTail = s.txTail := rfl
@[simp] theorem State.answerIrq_txRun (v : Word) : (s.answerIrq v).txRun = s.txRun := rfl
@[simp] theorem State.answerIrq_txLen (v : Word) : (s.answerIrq v).txLen = s.txLen := rfl
@[simp] theorem State.answerIrq_rxHead (v : Word) : (s.answerIrq v).rxHead = s.rxHead := rfl
@[simp] theorem State.answerIrq_rxTail (v : Word) : (s.answerIrq v).rxTail = s.rxTail := rfl
@[simp] theorem State.answerIrq_rxOrg (v : Word) : (s.answerIrq v).rxOrg = s.rxOrg := rfl
@[simp] theorem State.answerIrq_rxSize (v : Word) : (s.answerIrq v).rxSize = s.rxSize := rfl
@[simp] theorem State.answerIrq_inited (v : Word) : (s.answerIrq v).inited = s.inited := rfl
@[simp] theorem State.answerIrq_caps (v : Word) : (s.answerIrq v).caps = s.caps := rfl
@[simp] theorem State.answerIrq_flags (v : Word) : (s.answerIrq v).flags = s.flags := rfl
@[simp] theorem State.answerIrq_appSeq (v : Word) : (s.answerIrq v).appSeq = s.appSeq := rfl
@[simp] theorem State.answerIrq_env (v : Word) : (s.answerIrq v).env = s.env := rfl
@[simp] theorem State.answerIrq_appSrc (v : Word) : (s.answerIrq v).appSrc = s.appSrc := rfl
@[simp] theorem State.answerIrq_out (v : Word) : (s.answerIrq v).out = ⟨.irq, v, []⟩ :: s.out := rfl
@[simp] theorem State.answerIrq_calls (v : Word) : (s.answerIrq v).calls = s.calls := rfl
@[simp] theorem State.answerIrq_inputs (v : Word) : (s.answerIrq v).inputs = s.inputs := rfl
@[simp] theorem State.answerIrq_script (v : Word) : (s.answerIrq v).script = s.script := rfl
@[simp] theorem State.answerIrq_freeCtr (v : Word) : (s.answerIrq v).freeCtr = s.freeCtr := rfl

/-! `State.standAt` -/

@[simp] theorem State.standAt_params (q : AppSeq) : (s.standAt q).params = s.params := rfl
@[simp] theorem State.standAt_txBuf (q : AppSeq) : (s.standAt q).txBuf = s.txBuf := rfl
@[simp] theorem State.standAt_rxBuf (q : AppSeq) : (s.standAt q).rxBuf = s.rxBuf := rfl
@[simp] theorem State.standAt_txHead (q : AppSeq) : (s.standAt q).txHead = s.txHead := rfl
@[simp] theorem State.standAt_txTail (q : AppSeq) : (s.standAt q).txTail = s.txTail := rfl
@[simp] theorem State.standAt_txRun (q : AppSeq) : (s.standAt q).txRun = s.txRun := rfl
@[simp] theorem State.standAt_txLen (q : AppSeq) : (s.standAt q).txLen = s.txLen := rfl
@[simp] theorem State.standAt_rxHead (q : AppSeq) : (s.standAt q).rxHead = s.rxHead := rfl
@[simp] theorem State.standAt_rxTail (q : AppSeq) : (s.standAt q).rxTail = s.rxTail := rfl
@[simp] theorem State.standAt_rxOrg (q : AppSeq) : (s.standAt q).rxOrg = s.rxOrg := rfl
@[simp] theorem State.standAt_rxSize (q : AppSeq) : (s.standAt q).rxSize = s.rxSize := rfl
@[simp] theorem State.standAt_inited (q : AppSeq) : (s.standAt q).inited = s.inited := rfl
@[simp] theorem State.standAt_caps (q : AppSeq) : (s.standAt q).caps = s.caps := rfl
@[simp] theorem State.standAt_flags (q : AppSeq) : (s.standAt q).flags = s.flags := rfl
@[simp] theorem State.standAt_appSeq (q : AppSeq) : (s.standAt q).appSeq = q := rfl
@[simp] theorem State.standAt_env (q : AppSeq) : (s.standAt q).env = s.env := rfl
@[simp] theorem State.standAt_appSrc (q : AppSeq) : (s.standAt q).appSrc = s.appSrc := rfl
@[simp] theorem State.standAt_out (q : AppSeq) : (s.standAt q).out = s.out := rfl
@[simp] theorem State.standAt_calls (q : AppSeq) : (s.standAt q).calls = s.calls := rfl
@[simp] theorem State.standAt_inputs (q : AppSeq) : (s.standAt q).inputs = s.inputs := rfl
@[simp] theorem State.standAt_script (q : AppSeq) : (s.standAt q).script = s.script := rfl
@[simp] theorem State.standAt_freeCtr (q : AppSeq) : (s.standAt q).freeCtr = s.freeCtr := rfl

/-! `State.clearPend` -/

@[simp] theorem State.clearPend_params (e : Event) : (s.clearPend e).params = s.params := rfl
@[simp] theorem State.clearPend_txBuf (e : Event) : (s.clearPend e).txBuf = s.txBuf := rfl
@[simp] theorem State.clearPend_rxBuf (e : Event) : (s.clearPend e).rxBuf = s.rxBuf := rfl
@[simp] theorem State.clearPend_txHead (e : Event) : (s.clearPend e).txHead = s.txHead := rfl
@[simp] theorem State.clearPend_txTail (e : Event) : (s.clearPend e).txTail = s.txTail := rfl
@[simp] theorem State.clearPend_txRun (e : Event) : (s.clearPend e).txRun = s.txRun := rfl
@[simp] theorem State.clearPend_txLen (e : Event) : (s.clearPend e).txLen = s.txLen := rfl
@[simp] theorem State.clearPend_rxHead (e : Event) : (s.clearPend e).rxHead = s.rxHead := rfl
@[simp] theorem State.clearPend_rxTail (e : Event) : (s.clearPend e).rxTail = s.rxTail := rfl
@[simp] theorem State.clearPend_rxOrg (e : Event) : (s.clearPend e).rxOrg = s.rxOrg := rfl
@[simp] theorem State.clearPend_rxSize (e : Event) : (s.clearPend e).rxSize = s.rxSize := rfl
@[simp] theorem State.clearPend_inited (e : Event) : (s.clearPend e).inited = s.inited := rfl
@[simp] theorem State.clearPend_caps (e : Event) : (s.clearPend e).caps = s.caps := rfl
@[simp] theorem State.clearPend_flags (e : Event) : (s.clearPend e).flags = s.flags := rfl
@[simp] theorem State.clearPend_appSeq (e : Event) : (s.clearPend e).appSeq = s.appSeq := rfl
@[simp] theorem State.clearPend_env (e : Event) : (s.clearPend e).env = { s.env with pend := s.env.pend.put false e } := rfl
@[simp] theorem State.clearPend_appSrc (e : Event) : (s.clearPend e).appSrc = s.appSrc := rfl
@[simp] theorem State.clearPend_out (e : Event) : (s.clearPend e).out = s.out := rfl
@[simp] theorem State.clearPend_calls (e : Event) : (s.clearPend e).calls = s.calls := rfl
@[simp] theorem State.clearPend_inputs (e : Event) : (s.clearPend e).inputs = s.inputs := rfl
@[simp] theorem State.clearPend_script (e : Event) : (s.clearPend e).script = s.script := rfl
@[simp] theorem State.clearPend_freeCtr (e : Event) : (s.clearPend e).freeCtr = s.freeCtr := rfl

/-! `State.useChoice` -/

@[simp] theorem State.useChoice_params : (s.useChoice).params = s.params := rfl
@[simp] theorem State.useChoice_txBuf : (s.useChoice).txBuf = s.txBuf := rfl
@[simp] theorem State.useChoice_rxBuf : (s.useChoice).rxBuf = s.rxBuf := rfl
@[simp] theorem State.useChoice_txHead : (s.useChoice).txHead = s.txHead := rfl
@[simp] theorem State.useChoice_txTail : (s.useChoice).txTail = s.txTail := rfl
@[simp] theorem State.useChoice_txRun : (s.useChoice).txRun = s.txRun := rfl
@[simp] theorem State.useChoice_txLen : (s.useChoice).txLen = s.txLen := rfl
@[simp] theorem State.useChoice_rxHead : (s.useChoice).rxHead = s.rxHead := rfl
@[simp] theorem State.useChoice_rxTail : (s.useChoice).rxTail = s.rxTail := rfl
@[simp] theorem State.useChoice_rxOrg : (s.useChoice).rxOrg = s.rxOrg := rfl
@[simp] theorem State.useChoice_rxSize : (s.useChoice).rxSize = s.rxSize := rfl
@[simp] theorem State.useChoice_inited : (s.useChoice).inited = s.inited := rfl
@[simp] theorem State.useChoice_caps : (s.useChoice).caps = s.caps := rfl
@[simp] theorem State.useChoice_flags : (s.useChoice).flags = s.flags := rfl
@[simp] theorem State.useChoice_appSeq : (s.useChoice).appSeq = s.appSeq := rfl
@[simp] theorem State.useChoice_env : (s.useChoice).env = s.env := rfl
@[simp] theorem State.useChoice_appSrc : (s.useChoice).appSrc = s.appSrc := rfl
@[simp] theorem State.useChoice_out : (s.useChoice).out = s.out := rfl
@[simp] theorem State.useChoice_calls : (s.useChoice).calls = s.calls := rfl
@[simp] theorem State.useChoice_inputs : (s.useChoice).inputs = s.inputs := rfl
@[simp] theorem State.useChoice_script : (s.useChoice).script = s.script.tail := rfl
@[simp] theorem State.useChoice_freeCtr : (s.useChoice).freeCtr = s.freeCtr + 1 := rfl

/-! `State.logCall` -/

@[simp] theorem State.logCall_params (cap : Capability) (off len : Idx) (resp : Word) : (s.logCall cap off len resp).params = s.params := rfl
@[simp] theorem State.logCall_txBuf (cap : Capability) (off len : Idx) (resp : Word) : (s.logCall cap off len resp).txBuf = s.txBuf := rfl
@[simp] theorem State.logCall_rxBuf (cap : Capability) (off len : Idx) (resp : Word) : (s.logCall cap off len resp).rxBuf = s.rxBuf := rfl
@[simp] theorem State.logCall_txHead (cap : Capability) (off len : Idx) (resp : Word) : (s.logCall cap off len resp).txHead = s.txHead := rfl
@[simp] theorem State.logCall_txTail (cap : Capability) (off len : Idx) (resp : Word) : (s.logCall cap off len resp).txTail = s.txTail := rfl
@[simp] theorem State.logCall_txRun (cap : Capability) (off len : Idx) (resp : Word) : (s.logCall cap off len resp).txRun = s.txRun := rfl
@[simp] theorem State.logCall_txLen (cap : Capability) (off len : Idx) (resp : Word) : (s.logCall cap off len resp).txLen = s.txLen := rfl
@[simp] theorem State.logCall_rxHead (cap : Capability) (off len : Idx) (resp : Word) : (s.logCall cap off len resp).rxHead = s.rxHead := rfl
@[simp] theorem State.logCall_rxTail (cap : Capability) (off len : Idx) (resp : Word) : (s.logCall cap off len resp).rxTail = s.rxTail := rfl
@[simp] theorem State.logCall_rxOrg (cap : Capability) (off len : Idx) (resp : Word) : (s.logCall cap off len resp).rxOrg = s.rxOrg := rfl
@[simp] theorem State.logCall_rxSize (cap : Capability) (off len : Idx) (resp : Word) : (s.logCall cap off len resp).rxSize = s.rxSize := rfl
@[simp] theorem State.logCall_inited (cap : Capability) (off len : Idx) (resp : Word) : (s.logCall cap off len resp).inited = s.inited := rfl
@[simp] theorem State.logCall_caps (cap : Capability) (off len : Idx) (resp : Word) : (s.logCall cap off len resp).caps = s.caps := rfl
@[simp] theorem State.logCall_flags (cap : Capability) (off len : Idx) (resp : Word) : (s.logCall cap off len resp).flags = s.flags := rfl
@[simp] theorem State.logCall_appSeq (cap : Capability) (off len : Idx) (resp : Word) : (s.logCall cap off len resp).appSeq = s.appSeq := rfl
@[simp] theorem State.logCall_env (cap : Capability) (off len : Idx) (resp : Word) : (s.logCall cap off len resp).env = s.env := rfl
@[simp] theorem State.logCall_appSrc (cap : Capability) (off len : Idx) (resp : Word) : (s.logCall cap off len resp).appSrc = s.appSrc := rfl
@[simp] theorem State.logCall_out (cap : Capability) (off len : Idx) (resp : Word) : (s.logCall cap off len resp).out = s.out := rfl
@[simp] theorem State.logCall_calls (cap : Capability) (off len : Idx) (resp : Word) : (s.logCall cap off len resp).calls = ⟨cap, off, len, resp⟩ :: s.calls := rfl
@[simp] theorem State.logCall_inputs (cap : Capability) (off len : Idx) (resp : Word) : (s.logCall cap off len resp).inputs = s.inputs := rfl
@[simp] theorem State.logCall_script (cap : Capability) (off len : Idx) (resp : Word) : (s.logCall cap off len resp).script = s.script := rfl
@[simp] theorem State.logCall_freeCtr (cap : Capability) (off len : Idx) (resp : Word) : (s.logCall cap off len resp).freeCtr = s.freeCtr := rfl

/-! `State.enterRunning` -/

@[simp] theorem State.enterRunning_params (len : Idx) : (s.enterRunning len).params = s.params := rfl
@[simp] theorem State.enterRunning_txBuf (len : Idx) : (s.enterRunning len).txBuf = s.txBuf := rfl
@[simp] theorem State.enterRunning_rxBuf (len : Idx) : (s.enterRunning len).rxBuf = s.rxBuf := rfl
@[simp] theorem State.enterRunning_txHead (len : Idx) : (s.enterRunning len).txHead = s.txHead := rfl
@[simp] theorem State.enterRunning_txTail (len : Idx) : (s.enterRunning len).txTail = s.txTail := rfl
@[simp] theorem State.enterRunning_txRun (len : Idx) : (s.enterRunning len).txRun = true := rfl
@[simp] theorem State.enterRunning_txLen (len : Idx) : (s.enterRunning len).txLen = len := rfl
@[simp] theorem State.enterRunning_rxHead (len : Idx) : (s.enterRunning len).rxHead = s.rxHead := rfl
@[simp] theorem State.enterRunning_rxTail (len : Idx) : (s.enterRunning len).rxTail = s.rxTail := rfl
@[simp] theorem State.enterRunning_rxOrg (len : Idx) : (s.enterRunning len).rxOrg = s.rxOrg := rfl
@[simp] theorem State.enterRunning_rxSize (len : Idx) : (s.enterRunning len).rxSize = s.rxSize := rfl
@[simp] theorem State.enterRunning_inited (len : Idx) : (s.enterRunning len).inited = s.inited := rfl
@[simp] theorem State.enterRunning_caps (len : Idx) : (s.enterRunning len).caps = s.caps := rfl
@[simp] theorem State.enterRunning_flags (len : Idx) : (s.enterRunning len).flags = s.flags := rfl
@[simp] theorem State.enterRunning_appSeq (len : Idx) : (s.enterRunning len).appSeq = s.appSeq := rfl
@[simp] theorem State.enterRunning_env (len : Idx) : (s.enterRunning len).env = s.env := rfl
@[simp] theorem State.enterRunning_appSrc (len : Idx) : (s.enterRunning len).appSrc = s.appSrc := rfl
@[simp] theorem State.enterRunning_out (len : Idx) : (s.enterRunning len).out = s.out := rfl
@[simp] theorem State.enterRunning_calls (len : Idx) : (s.enterRunning len).calls = s.calls := rfl
@[simp] theorem State.enterRunning_inputs (len : Idx) : (s.enterRunning len).inputs = s.inputs := rfl
@[simp] theorem State.enterRunning_script (len : Idx) : (s.enterRunning len).script = s.script := rfl
@[simp] theorem State.enterRunning_freeCtr (len : Idx) : (s.enterRunning len).freeCtr = s.freeCtr := rfl

/-! `State.leaveRunning` -/

@[simp] theorem State.leaveRunning_params : (s.leaveRunning).params = s.params := rfl
@[simp] theorem State.leaveRunning_txBuf : (s.leaveRunning).txBuf = s.txBuf := rfl
@[simp] theorem State.leaveRunning_rxBuf : (s.leaveRunning).rxBuf = s.rxBuf := rfl
@[simp] theorem State.leaveRunning_txHead : (s.leaveRunning).txHead = s.txHead := rfl
@[simp] theorem State.leaveRunning_txTail : (s.leaveRunning).txTail = s.txTail := rfl
@[simp] theorem State.leaveRunning_txRun : (s.leaveRunning).txRun = false := rfl
@[simp] theorem State.leaveRunning_txLen : (s.leaveRunning).txLen = 0#24 := rfl
@[simp] theorem State.leaveRunning_rxHead : (s.leaveRunning).rxHead = s.rxHead := rfl
@[simp] theorem State.leaveRunning_rxTail : (s.leaveRunning).rxTail = s.rxTail := rfl
@[simp] theorem State.leaveRunning_rxOrg : (s.leaveRunning).rxOrg = s.rxOrg := rfl
@[simp] theorem State.leaveRunning_rxSize : (s.leaveRunning).rxSize = s.rxSize := rfl
@[simp] theorem State.leaveRunning_inited : (s.leaveRunning).inited = s.inited := rfl
@[simp] theorem State.leaveRunning_caps : (s.leaveRunning).caps = s.caps := rfl
@[simp] theorem State.leaveRunning_flags : (s.leaveRunning).flags = s.flags := rfl
@[simp] theorem State.leaveRunning_appSeq : (s.leaveRunning).appSeq = s.appSeq := rfl
@[simp] theorem State.leaveRunning_env : (s.leaveRunning).env = s.env := rfl
@[simp] theorem State.leaveRunning_appSrc : (s.leaveRunning).appSrc = s.appSrc := rfl
@[simp] theorem State.leaveRunning_out : (s.leaveRunning).out = s.out := rfl
@[simp] theorem State.leaveRunning_calls : (s.leaveRunning).calls = s.calls := rfl
@[simp] theorem State.leaveRunning_inputs : (s.leaveRunning).inputs = s.inputs := rfl
@[simp] theorem State.leaveRunning_script : (s.leaveRunning).script = s.script := rfl
@[simp] theorem State.leaveRunning_freeCtr : (s.leaveRunning).freeCtr = s.freeCtr := rfl

/-! `State.creditRun` -/

@[simp] theorem State.creditRun_params : (s.creditRun).params = s.params := rfl
@[simp] theorem State.creditRun_txBuf : (s.creditRun).txBuf = s.txBuf := rfl
@[simp] theorem State.creditRun_rxBuf : (s.creditRun).rxBuf = s.rxBuf := rfl
@[simp] theorem State.creditRun_txHead : (s.creditRun).txHead = idxOf (ringAdd s.txHead.toNat s.txLen.toNat s.params.txCap) := rfl
@[simp] theorem State.creditRun_txTail : (s.creditRun).txTail = s.txTail := rfl
@[simp] theorem State.creditRun_txRun : (s.creditRun).txRun = false := rfl
@[simp] theorem State.creditRun_txLen : (s.creditRun).txLen = 0#24 := rfl
@[simp] theorem State.creditRun_rxHead : (s.creditRun).rxHead = s.rxHead := rfl
@[simp] theorem State.creditRun_rxTail : (s.creditRun).rxTail = s.rxTail := rfl
@[simp] theorem State.creditRun_rxOrg : (s.creditRun).rxOrg = s.rxOrg := rfl
@[simp] theorem State.creditRun_rxSize : (s.creditRun).rxSize = s.rxSize := rfl
@[simp] theorem State.creditRun_inited : (s.creditRun).inited = s.inited := rfl
@[simp] theorem State.creditRun_caps : (s.creditRun).caps = s.caps := rfl
@[simp] theorem State.creditRun_flags : (s.creditRun).flags = s.flags := rfl
@[simp] theorem State.creditRun_appSeq : (s.creditRun).appSeq = s.appSeq := rfl
@[simp] theorem State.creditRun_env : (s.creditRun).env = s.env := rfl
@[simp] theorem State.creditRun_appSrc : (s.creditRun).appSrc = s.appSrc := rfl
@[simp] theorem State.creditRun_out : (s.creditRun).out = s.out := rfl
@[simp] theorem State.creditRun_calls : (s.creditRun).calls = s.calls := rfl
@[simp] theorem State.creditRun_inputs : (s.creditRun).inputs = s.inputs := rfl
@[simp] theorem State.creditRun_script : (s.creditRun).script = s.script := rfl
@[simp] theorem State.creditRun_freeCtr : (s.creditRun).freeCtr = s.freeCtr := rfl

/-! `State.refreshTail` -/

@[simp] theorem State.refreshTail_params (r : Word) : (s.refreshTail r).params = s.params := rfl
@[simp] theorem State.refreshTail_txBuf (r : Word) : (s.refreshTail r).txBuf = s.txBuf := rfl
@[simp] theorem State.refreshTail_rxBuf (r : Word) : (s.refreshTail r).rxBuf = s.rxBuf := rfl
@[simp] theorem State.refreshTail_txHead (r : Word) : (s.refreshTail r).txHead = s.txHead := rfl
@[simp] theorem State.refreshTail_txTail (r : Word) : (s.refreshTail r).txTail = s.txTail := rfl
@[simp] theorem State.refreshTail_txRun (r : Word) : (s.refreshTail r).txRun = s.txRun := rfl
@[simp] theorem State.refreshTail_txLen (r : Word) : (s.refreshTail r).txLen = s.txLen := rfl
@[simp] theorem State.refreshTail_rxHead (r : Word) : (s.refreshTail r).rxHead = s.rxHead := rfl
@[simp] theorem State.refreshTail_rxTail (r : Word) : (s.refreshTail r).rxTail = idxOf (ringAdd s.rxOrg.toNat (s.rxSize.toNat - r.toNat) s.params.rxCap) := rfl
@[simp] theorem State.refreshTail_rxOrg (r : Word) : (s.refreshTail r).rxOrg = s.rxOrg := rfl
@[simp] theorem State.refreshTail_rxSize (r : Word) : (s.refreshTail r).rxSize = s.rxSize := rfl
@[simp] theorem State.refreshTail_inited (r : Word) : (s.refreshTail r).inited = s.inited := rfl
@[simp] theorem State.refreshTail_caps (r : Word) : (s.refreshTail r).caps = s.caps := rfl
@[simp] theorem State.refreshTail_flags (r : Word) : (s.refreshTail r).flags = s.flags := rfl
@[simp] theorem State.refreshTail_appSeq (r : Word) : (s.refreshTail r).appSeq = s.appSeq := rfl
@[simp] theorem State.refreshTail_env (r : Word) : (s.refreshTail r).env = s.env := rfl
@[simp] theorem State.refreshTail_appSrc (r : Word) : (s.refreshTail r).appSrc = s.appSrc := rfl
@[simp] theorem State.refreshTail_out (r : Word) : (s.refreshTail r).out = s.out := rfl
@[simp] theorem State.refreshTail_calls (r : Word) : (s.refreshTail r).calls = s.calls := rfl
@[simp] theorem State.refreshTail_inputs (r : Word) : (s.refreshTail r).inputs = s.inputs := rfl
@[simp] theorem State.refreshTail_script (r : Word) : (s.refreshTail r).script = s.script := rfl
@[simp] theorem State.refreshTail_freeCtr (r : Word) : (s.refreshTail r).freeCtr = s.freeCtr := rfl

/-! `State.zeroed` -/

@[simp] theorem State.zeroed_params (m : BitVec 6) : (s.zeroed m).params = s.params := rfl
@[simp] theorem State.zeroed_txBuf (m : BitVec 6) : (s.zeroed m).txBuf = s.txBuf := rfl
@[simp] theorem State.zeroed_rxBuf (m : BitVec 6) : (s.zeroed m).rxBuf = s.rxBuf := rfl
@[simp] theorem State.zeroed_txHead (m : BitVec 6) : (s.zeroed m).txHead = 0#24 := rfl
@[simp] theorem State.zeroed_txTail (m : BitVec 6) : (s.zeroed m).txTail = 0#24 := rfl
@[simp] theorem State.zeroed_txRun (m : BitVec 6) : (s.zeroed m).txRun = false := rfl
@[simp] theorem State.zeroed_txLen (m : BitVec 6) : (s.zeroed m).txLen = 0#24 := rfl
@[simp] theorem State.zeroed_rxHead (m : BitVec 6) : (s.zeroed m).rxHead = 0#24 := rfl
@[simp] theorem State.zeroed_rxTail (m : BitVec 6) : (s.zeroed m).rxTail = 0#24 := rfl
@[simp] theorem State.zeroed_rxOrg (m : BitVec 6) : (s.zeroed m).rxOrg = 0#24 := rfl
@[simp] theorem State.zeroed_rxSize (m : BitVec 6) : (s.zeroed m).rxSize = idxOf s.params.rxCap := rfl
@[simp] theorem State.zeroed_inited (m : BitVec 6) : (s.zeroed m).inited = true := rfl
@[simp] theorem State.zeroed_caps (m : BitVec 6) : (s.zeroed m).caps = m := rfl
@[simp] theorem State.zeroed_flags (m : BitVec 6) : (s.zeroed m).flags = 0#8 := rfl
@[simp] theorem State.zeroed_appSeq (m : BitVec 6) : (s.zeroed m).appSeq = s.appSeq := rfl
@[simp] theorem State.zeroed_env (m : BitVec 6) : (s.zeroed m).env = s.env := rfl
@[simp] theorem State.zeroed_appSrc (m : BitVec 6) : (s.zeroed m).appSrc = s.appSrc := rfl
@[simp] theorem State.zeroed_out (m : BitVec 6) : (s.zeroed m).out = s.out := rfl
@[simp] theorem State.zeroed_calls (m : BitVec 6) : (s.zeroed m).calls = s.calls := rfl
@[simp] theorem State.zeroed_inputs (m : BitVec 6) : (s.zeroed m).inputs = s.inputs := rfl
@[simp] theorem State.zeroed_script (m : BitVec 6) : (s.zeroed m).script = s.script := rfl
@[simp] theorem State.zeroed_freeCtr (m : BitVec 6) : (s.zeroed m).freeCtr = s.freeCtr := rfl

/-! `hardwareReset` and `State.resetWith` -/

@[simp] theorem hardwareReset_params : (hardwareReset s).params = s.params := rfl
@[simp] theorem hardwareReset_inited : (hardwareReset s).inited = false := rfl
@[simp] theorem hardwareReset_appSeq : (hardwareReset s).appSeq = .idle := rfl
@[simp] theorem hardwareReset_env : (hardwareReset s).env = Env.reset := rfl
@[simp] theorem hardwareReset_txBuf : (hardwareReset s).txBuf = [] := rfl
@[simp] theorem hardwareReset_rxBuf : (hardwareReset s).rxBuf = [] := rfl
@[simp] theorem hardwareReset_calls : (hardwareReset s).calls = [] := rfl
@[simp] theorem hardwareReset_inputs : (hardwareReset s).inputs = s.inputs := rfl
@[simp] theorem resetWith_params (p : Params) : (State.resetWith p).params = p := rfl
@[simp] theorem resetWith_inited (p : Params) : (State.resetWith p).inited = false := rfl
@[simp] theorem resetWith_appSeq (p : Params) : (State.resetWith p).appSeq = .idle := rfl
@[simp] theorem resetWith_env (p : Params) : (State.resetWith p).env = Env.reset := rfl

/-! The pending bits -/

@[simp] theorem Pend.get_put_same (p : Pend) (v : Bool) (e : Event) : (p.put v e).get e = v := by cases e <;> rfl

@[simp] theorem Pend.get_put_other (p : Pend) (v : Bool) {e e' : Event} (h : e' ≠ e) : (p.put v e).get e' = p.get e' := by
  cases e <;> cases e' <;> first | rfl | exact absurd rfl h

/-! The guards -/

@[simp] theorem whenIdle_idle {s : State} {k : Host.Outcome State Fault Refusal} (h : s.appSeq = .idle) : whenIdle s k = k := by
  simp [whenIdle, h]

theorem whenIdle_busy {s : State} {k : Host.Outcome State Fault Refusal} (h : s.appSeq ≠ .idle) :
    whenIdle s k = .fault .appBusy := by
  unfold whenIdle; split <;> first | rfl | exact absurd ‹_› h

@[simp] theorem whenInited_true {port : Port} {s : State} {k : Host.Outcome State Fault Refusal} (h : s.inited = true) :
    whenInited port s k = k := by simp [whenInited, h]

@[simp] theorem whenInited_false {port : Port} {s : State} {k : Host.Outcome State Fault Refusal} (h : s.inited = false) :
    whenInited port s k = .next (s.answer port (codeWord .notInitialized)) := by simp [whenInited, h]

/-- What a next state behind `whenIdle` says. -/
theorem whenIdle_next {s t : State} {k : Host.Outcome State Fault Refusal} (h : whenIdle s k = .next t) :
    s.appSeq = .idle ∧ k = .next t := by
  by_cases hi : s.appSeq = .idle
  · exact ⟨hi, by simpa [hi] using h⟩
  · rw [whenIdle_busy hi] at h; cases h

/-- What a next state behind `whenInited` says. -/
theorem whenInited_next {port : Port} {s t : State} {k : Host.Outcome State Fault Refusal} (h : whenInited port s k = .next t) :
    (s.inited = false ∧ t = s.answer port (codeWord .notInitialized)) ∨ (s.inited = true ∧ k = .next t) := by
  cases hi : s.inited
  · rw [whenInited_false hi] at h; cases h; exact .inl ⟨rfl, rfl⟩
  · exact .inr ⟨rfl, by simpa [hi] using h⟩

end Sys2Proof.Machine
end

