-- ==== Sys2Proof/Laws/Capability.lean ====
section
/-! SUPPORT. What each capability call answers and does to ENV (spec/43_capability_calls.md), and that it leaves the block alone. -/

namespace Sys2Proof.Machine

variable (s : State)

/-! `capStartRx`: the block's own fields -/

@[simp] theorem capStartRx_params (off len : Idx) : (capStartRx off len s).2.params = s.params := rfl
@[simp] theorem capStartRx_txBuf (off len : Idx) : (capStartRx off len s).2.txBuf = s.txBuf := rfl
@[simp] theorem capStartRx_rxBuf (off len : Idx) : (capStartRx off len s).2.rxBuf = s.rxBuf := rfl
@[simp] theorem capStartRx_txHead (off len : Idx) : (capStartRx off len s).2.txHead = s.txHead := rfl
@[simp] theorem capStartRx_txTail (off len : Idx) : (capStartRx off len s).2.txTail = s.txTail := rfl
@[simp] theorem capStartRx_txRun (off len : Idx) : (capStartRx off len s).2.txRun = s.txRun := rfl
@[simp] theorem capStartRx_txLen (off len : Idx) : (capStartRx off len s).2.txLen = s.txLen := rfl
@[simp] theorem capStartRx_rxHead (off len : Idx) : (capStartRx off len s).2.rxHead = s.rxHead := rfl
@[simp] theorem capStartRx_rxTail (off len : Idx) : (capStartRx off len s).2.rxTail = s.rxTail := rfl
@[simp] theorem capStartRx_rxOrg (off len : Idx) : (capStartRx off len s).2.rxOrg = s.rxOrg := rfl
@[simp] theorem capStartRx_rxSize (off len : Idx) : (capStartRx off len s).2.rxSize = s.rxSize := rfl
@[simp] theorem capStartRx_inited (off len : Idx) : (capStartRx off len s).2.inited = s.inited := rfl
@[simp] theorem capStartRx_caps (off len : Idx) : (capStartRx off len s).2.caps = s.caps := rfl
@[simp] theorem capStartRx_flags (off len : Idx) : (capStartRx off len s).2.flags = s.flags := rfl
@[simp] theorem capStartRx_appSeq (off len : Idx) : (capStartRx off len s).2.appSeq = s.appSeq := rfl
@[simp] theorem capStartRx_appSrc (off len : Idx) : (capStartRx off len s).2.appSrc = s.appSrc := rfl
@[simp] theorem capStartRx_out (off len : Idx) : (capStartRx off len s).2.out = s.out := rfl
@[simp] theorem capStartRx_inputs (off len : Idx) : (capStartRx off len s).2.inputs = s.inputs := rfl

/-! `capAbortRx`: the block's own fields -/

@[simp] theorem capAbortRx_params : (capAbortRx s).2.params = s.params := rfl
@[simp] theorem capAbortRx_txBuf : (capAbortRx s).2.txBuf = s.txBuf := rfl
@[simp] theorem capAbortRx_rxBuf : (capAbortRx s).2.rxBuf = s.rxBuf := rfl
@[simp] theorem capAbortRx_txHead : (capAbortRx s).2.txHead = s.txHead := rfl
@[simp] theorem capAbortRx_txTail : (capAbortRx s).2.txTail = s.txTail := rfl
@[simp] theorem capAbortRx_txRun : (capAbortRx s).2.txRun = s.txRun := rfl
@[simp] theorem capAbortRx_txLen : (capAbortRx s).2.txLen = s.txLen := rfl
@[simp] theorem capAbortRx_rxHead : (capAbortRx s).2.rxHead = s.rxHead := rfl
@[simp] theorem capAbortRx_rxTail : (capAbortRx s).2.rxTail = s.rxTail := rfl
@[simp] theorem capAbortRx_rxOrg : (capAbortRx s).2.rxOrg = s.rxOrg := rfl
@[simp] theorem capAbortRx_rxSize : (capAbortRx s).2.rxSize = s.rxSize := rfl
@[simp] theorem capAbortRx_inited : (capAbortRx s).2.inited = s.inited := rfl
@[simp] theorem capAbortRx_caps : (capAbortRx s).2.caps = s.caps := rfl
@[simp] theorem capAbortRx_flags : (capAbortRx s).2.flags = s.flags := rfl
@[simp] theorem capAbortRx_appSeq : (capAbortRx s).2.appSeq = s.appSeq := rfl
@[simp] theorem capAbortRx_appSrc : (capAbortRx s).2.appSrc = s.appSrc := rfl
@[simp] theorem capAbortRx_out : (capAbortRx s).2.out = s.out := rfl
@[simp] theorem capAbortRx_inputs : (capAbortRx s).2.inputs = s.inputs := rfl

/-! `capStartTx`: the block's own fields -/

@[simp] theorem capStartTx_params (off len : Idx) : (capStartTx off len s).2.params = s.params := rfl
@[simp] theorem capStartTx_txBuf (off len : Idx) : (capStartTx off len s).2.txBuf = s.txBuf := rfl
@[simp] theorem capStartTx_rxBuf (off len : Idx) : (capStartTx off len s).2.rxBuf = s.rxBuf := rfl
@[simp] theorem capStartTx_txHead (off len : Idx) : (capStartTx off len s).2.txHead = s.txHead := rfl
@[simp] theorem capStartTx_txTail (off len : Idx) : (capStartTx off len s).2.txTail = s.txTail := rfl
@[simp] theorem capStartTx_txRun (off len : Idx) : (capStartTx off len s).2.txRun = s.txRun := rfl
@[simp] theorem capStartTx_txLen (off len : Idx) : (capStartTx off len s).2.txLen = s.txLen := rfl
@[simp] theorem capStartTx_rxHead (off len : Idx) : (capStartTx off len s).2.rxHead = s.rxHead := rfl
@[simp] theorem capStartTx_rxTail (off len : Idx) : (capStartTx off len s).2.rxTail = s.rxTail := rfl
@[simp] theorem capStartTx_rxOrg (off len : Idx) : (capStartTx off len s).2.rxOrg = s.rxOrg := rfl
@[simp] theorem capStartTx_rxSize (off len : Idx) : (capStartTx off len s).2.rxSize = s.rxSize := rfl
@[simp] theorem capStartTx_inited (off len : Idx) : (capStartTx off len s).2.inited = s.inited := rfl
@[simp] theorem capStartTx_caps (off len : Idx) : (capStartTx off len s).2.caps = s.caps := rfl
@[simp] theorem capStartTx_flags (off len : Idx) : (capStartTx off len s).2.flags = s.flags := rfl
@[simp] theorem capStartTx_appSeq (off len : Idx) : (capStartTx off len s).2.appSeq = s.appSeq := rfl
@[simp] theorem capStartTx_appSrc (off len : Idx) : (capStartTx off len s).2.appSrc = s.appSrc := rfl
@[simp] theorem capStartTx_out (off len : Idx) : (capStartTx off len s).2.out = s.out := rfl
@[simp] theorem capStartTx_inputs (off len : Idx) : (capStartTx off len s).2.inputs = s.inputs := rfl

/-! `capAbortTx`: the block's own fields -/

@[simp] theorem capAbortTx_params : (capAbortTx s).2.params = s.params := rfl
@[simp] theorem capAbortTx_txBuf : (capAbortTx s).2.txBuf = s.txBuf := rfl
@[simp] theorem capAbortTx_rxBuf : (capAbortTx s).2.rxBuf = s.rxBuf := rfl
@[simp] theorem capAbortTx_txHead : (capAbortTx s).2.txHead = s.txHead := rfl
@[simp] theorem capAbortTx_txTail : (capAbortTx s).2.txTail = s.txTail := rfl
@[simp] theorem capAbortTx_txRun : (capAbortTx s).2.txRun = s.txRun := rfl
@[simp] theorem capAbortTx_txLen : (capAbortTx s).2.txLen = s.txLen := rfl
@[simp] theorem capAbortTx_rxHead : (capAbortTx s).2.rxHead = s.rxHead := rfl
@[simp] theorem capAbortTx_rxTail : (capAbortTx s).2.rxTail = s.rxTail := rfl
@[simp] theorem capAbortTx_rxOrg : (capAbortTx s).2.rxOrg = s.rxOrg := rfl
@[simp] theorem capAbortTx_rxSize : (capAbortTx s).2.rxSize = s.rxSize := rfl
@[simp] theorem capAbortTx_inited : (capAbortTx s).2.inited = s.inited := rfl
@[simp] theorem capAbortTx_caps : (capAbortTx s).2.caps = s.caps := rfl
@[simp] theorem capAbortTx_flags : (capAbortTx s).2.flags = s.flags := rfl
@[simp] theorem capAbortTx_appSeq : (capAbortTx s).2.appSeq = s.appSeq := rfl
@[simp] theorem capAbortTx_appSrc : (capAbortTx s).2.appSrc = s.appSrc := rfl
@[simp] theorem capAbortTx_out : (capAbortTx s).2.out = s.out := rfl
@[simp] theorem capAbortTx_inputs : (capAbortTx s).2.inputs = s.inputs := rfl

/-! `capNowMillis`: the block's own fields -/

@[simp] theorem capNowMillis_params : (capNowMillis s).2.params = s.params := rfl
@[simp] theorem capNowMillis_txBuf : (capNowMillis s).2.txBuf = s.txBuf := rfl
@[simp] theorem capNowMillis_rxBuf : (capNowMillis s).2.rxBuf = s.rxBuf := rfl
@[simp] theorem capNowMillis_txHead : (capNowMillis s).2.txHead = s.txHead := rfl
@[simp] theorem capNowMillis_txTail : (capNowMillis s).2.txTail = s.txTail := rfl
@[simp] theorem capNowMillis_txRun : (capNowMillis s).2.txRun = s.txRun := rfl
@[simp] theorem capNowMillis_txLen : (capNowMillis s).2.txLen = s.txLen := rfl
@[simp] theorem capNowMillis_rxHead : (capNowMillis s).2.rxHead = s.rxHead := rfl
@[simp] theorem capNowMillis_rxTail : (capNowMillis s).2.rxTail = s.rxTail := rfl
@[simp] theorem capNowMillis_rxOrg : (capNowMillis s).2.rxOrg = s.rxOrg := rfl
@[simp] theorem capNowMillis_rxSize : (capNowMillis s).2.rxSize = s.rxSize := rfl
@[simp] theorem capNowMillis_inited : (capNowMillis s).2.inited = s.inited := rfl
@[simp] theorem capNowMillis_caps : (capNowMillis s).2.caps = s.caps := rfl
@[simp] theorem capNowMillis_flags : (capNowMillis s).2.flags = s.flags := rfl
@[simp] theorem capNowMillis_appSeq : (capNowMillis s).2.appSeq = s.appSeq := rfl
@[simp] theorem capNowMillis_appSrc : (capNowMillis s).2.appSrc = s.appSrc := rfl
@[simp] theorem capNowMillis_out : (capNowMillis s).2.out = s.out := rfl
@[simp] theorem capNowMillis_inputs : (capNowMillis s).2.inputs = s.inputs := rfl

/-! `capRxRemaining`: the block's own fields, and ENV -/

@[simp] theorem capRxRemaining_params : (capRxRemaining s).2.params = s.params := by unfold capRxRemaining; split <;> rfl
@[simp] theorem capRxRemaining_txBuf : (capRxRemaining s).2.txBuf = s.txBuf := by unfold capRxRemaining; split <;> rfl
@[simp] theorem capRxRemaining_rxBuf : (capRxRemaining s).2.rxBuf = s.rxBuf := by unfold capRxRemaining; split <;> rfl
@[simp] theorem capRxRemaining_txHead : (capRxRemaining s).2.txHead = s.txHead := by unfold capRxRemaining; split <;> rfl
@[simp] theorem capRxRemaining_txTail : (capRxRemaining s).2.txTail = s.txTail := by unfold capRxRemaining; split <;> rfl
@[simp] theorem capRxRemaining_txRun : (capRxRemaining s).2.txRun = s.txRun := by unfold capRxRemaining; split <;> rfl
@[simp] theorem capRxRemaining_txLen : (capRxRemaining s).2.txLen = s.txLen := by unfold capRxRemaining; split <;> rfl
@[simp] theorem capRxRemaining_rxHead : (capRxRemaining s).2.rxHead = s.rxHead := by unfold capRxRemaining; split <;> rfl
@[simp] theorem capRxRemaining_rxTail : (capRxRemaining s).2.rxTail = s.rxTail := by unfold capRxRemaining; split <;> rfl
@[simp] theorem capRxRemaining_rxOrg : (capRxRemaining s).2.rxOrg = s.rxOrg := by unfold capRxRemaining; split <;> rfl
@[simp] theorem capRxRemaining_rxSize : (capRxRemaining s).2.rxSize = s.rxSize := by unfold capRxRemaining; split <;> rfl
@[simp] theorem capRxRemaining_inited : (capRxRemaining s).2.inited = s.inited := by unfold capRxRemaining; split <;> rfl
@[simp] theorem capRxRemaining_caps : (capRxRemaining s).2.caps = s.caps := by unfold capRxRemaining; split <;> rfl
@[simp] theorem capRxRemaining_flags : (capRxRemaining s).2.flags = s.flags := by unfold capRxRemaining; split <;> rfl
@[simp] theorem capRxRemaining_appSeq : (capRxRemaining s).2.appSeq = s.appSeq := by unfold capRxRemaining; split <;> rfl
@[simp] theorem capRxRemaining_env : (capRxRemaining s).2.env = s.env := by unfold capRxRemaining; split <;> rfl
@[simp] theorem capRxRemaining_appSrc : (capRxRemaining s).2.appSrc = s.appSrc := by unfold capRxRemaining; split <;> rfl
@[simp] theorem capRxRemaining_out : (capRxRemaining s).2.out = s.out := by unfold capRxRemaining; split <;> rfl
@[simp] theorem capRxRemaining_inputs : (capRxRemaining s).2.inputs = s.inputs := by unfold capRxRemaining; split <;> rfl

/-! ENV's next choice is not the block's to change -/

@[simp] theorem choice_answerApp (v : Word) (dst : List Byte) : (s.answerApp v dst).choice = s.choice := rfl
@[simp] theorem choice_answerIrq (v : Word) : (s.answerIrq v).choice = s.choice := rfl
@[simp] theorem choice_standAt (q : AppSeq) : (s.standAt q).choice = s.choice := rfl
@[simp] theorem choice_clearPend (e : Event) : (s.clearPend e).choice = s.choice := rfl
@[simp] theorem choice_enterRunning (len : Idx) : (s.enterRunning len).choice = s.choice := rfl
@[simp] theorem choice_leaveRunning : s.leaveRunning.choice = s.choice := rfl
@[simp] theorem choice_creditRun : s.creditRun.choice = s.choice := rfl
@[simp] theorem choice_refreshTail (r : Word) : (s.refreshTail r).choice = s.choice := rfl
@[simp] theorem choice_logCall (cap : Capability) (off len : Idx) (resp : Word) : (s.logCall cap off len resp).choice = s.choice := rfl
@[simp] theorem abortTxResponse_leaveRunning : abortTxResponse s.leaveRunning = abortTxResponse s := rfl

/-! What each call answers, logs and does to ENV -/

@[simp] theorem capStartRx_resp (off len : Idx) : (capStartRx off len s).1 = s.choice.resp := rfl
@[simp] theorem capStartRx_calls (off len : Idx) :
    (capStartRx off len s).2.calls = ⟨.startRx, off, len, s.choice.resp⟩ :: s.calls := rfl
@[simp] theorem capStartRx_script (off len : Idx) : (capStartRx off len s).2.script = s.script.tail := rfl
@[simp] theorem capStartRx_freeCtr (off len : Idx) : (capStartRx off len s).2.freeCtr = s.freeCtr + 1 := rfl

theorem capStartRx_env (off len : Idx) : (capStartRx off len s).2.env =
    if isErr s.choice.resp then s.env else { s.env with rxBatch := some ⟨off, len, len⟩ } := rfl

/-- Whatever `Cap.startRx` answers, only the armed batch may change of ENV. -/
@[simp] theorem capStartRx_env_txRun (off len : Idx) : (capStartRx off len s).2.env.txRun = s.env.txRun := by
  rw [capStartRx_env]; split <;> rfl
@[simp] theorem capStartRx_env_pend (off len : Idx) : (capStartRx off len s).2.env.pend = s.env.pend := by
  rw [capStartRx_env]; split <;> rfl
@[simp] theorem capStartRx_env_now (off len : Idx) : (capStartRx off len s).2.env.now = s.env.now := by
  rw [capStartRx_env]; split <;> rfl
@[simp] theorem capStartRx_env_txWire (off len : Idx) : (capStartRx off len s).2.env.txWire = s.env.txWire := by
  rw [capStartRx_env]; split <;> rfl
@[simp] theorem capStartRx_env_rxLine (off len : Idx) : (capStartRx off len s).2.env.rxLine = s.env.rxLine := by
  rw [capStartRx_env]; split <;> rfl

@[simp] theorem capAbortRx_resp : (capAbortRx s).1 = s.choice.resp := rfl
@[simp] theorem capAbortRx_calls : (capAbortRx s).2.calls = ⟨.abortRx, 0#24, 0#24, s.choice.resp⟩ :: s.calls := rfl

/-- ENV after `Cap.abortRx` (spec/43_capability_calls.md R213). -/
theorem capAbortRx_env : (capAbortRx s).2.env =
    if isErr s.choice.resp then s.env.unspecified s.choice
    else { s.env with rxBatch := none, pend := { s.env.pend with rxHalf := false, rxComplete := false, idleLine := false } } := rfl

/-- A receive abort that succeeds leaves ENV's transmit side as it was. -/
theorem capAbortRx_ok {s : State} (h : isErr s.choice.resp = false) :
    (capAbortRx s).2.env.txRun = s.env.txRun ∧ (capAbortRx s).2.env.pend.txComplete = s.env.pend.txComplete := by
  rw [capAbortRx_env, h]; exact ⟨rfl, rfl⟩

@[simp] theorem capStartTx_resp (off len : Idx) : (capStartTx off len s).1 = s.choice.resp := rfl
@[simp] theorem capStartTx_calls (off len : Idx) :
    (capStartTx off len s).2.calls = ⟨.startTx, off, len, s.choice.resp⟩ :: s.calls := rfl
@[simp] theorem capStartTx_env (off len : Idx) : (capStartTx off len s).2.env = s.env.afterStartTx off len s.choice := rfl
@[simp] theorem capStartTx_script (off len : Idx) : (capStartTx off len s).2.script = s.script.tail := rfl
@[simp] theorem capStartTx_freeCtr (off len : Idx) : (capStartTx off len s).2.freeCtr = s.freeCtr + 1 := rfl

@[simp] theorem capAbortTx_resp : (capAbortTx s).1 = abortTxResponse s := rfl
@[simp] theorem capAbortTx_calls : (capAbortTx s).2.calls = ⟨.abortTx, 0#24, 0#24, abortTxResponse s⟩ :: s.calls := rfl

/-- ENV after `Cap.abortTx` (spec/43_capability_calls.md R216). -/
theorem capAbortTx_env : (capAbortTx s).2.env =
    if isErr (abortTxResponse s) then s.env.unspecifiedButBatch s.choice
    else { s.env with
      txRun := none
      pend := { s.env.pend with txComplete := false }
      txWire := s.env.txWire ++ (runBytes s).take s.choice.sent } := rfl

/-- Whatever `Cap.abortTx` answers, the armed batch and the line stay (spec/41_rx_engine.md R151). -/
@[simp] theorem capAbortTx_env_rxBatch : (capAbortTx s).2.env.rxBatch = s.env.rxBatch := by
  rw [capAbortTx_env]; split <;> rfl
@[simp] theorem capAbortTx_env_rxLine : (capAbortTx s).2.env.rxLine = s.env.rxLine := by
  rw [capAbortTx_env]; split <;> rfl

/-- A transmit abort that succeeds leaves neither a run nor its completion. -/
theorem capAbortTx_ok (h : isErr (abortTxResponse s) = false) :
    (capAbortTx s).2.env.txRun = none ∧ (capAbortTx s).2.env.pend.txComplete = false := by
  rw [capAbortTx_env, h]; exact ⟨rfl, rfl⟩

@[simp] theorem capNowMillis_resp : (capNowMillis s).1 = s.env.now := rfl
@[simp] theorem capNowMillis_env : (capNowMillis s).2.env = s.env := rfl
@[simp] theorem capNowMillis_calls : (capNowMillis s).2.calls = ⟨.nowMillis, 0#24, 0#24, s.env.now⟩ :: s.calls := rfl
@[simp] theorem capNowMillis_script : (capNowMillis s).2.script = s.script := rfl
@[simp] theorem capNowMillis_freeCtr : (capNowMillis s).2.freeCtr = s.freeCtr := rfl

/-- With a batch armed `Cap.rxRemaining()` answers its `rem` and changes nothing but the record of calls. -/
theorem capRxRemaining_armed {s : State} {b : Batch} (h : s.env.rxBatch = some b) :
    capRxRemaining s = (countWord b.rem, s.logCall .rxRemaining 0#24 0#24 (countWord b.rem)) := by
  simp [capRxRemaining, h]

theorem capRxRemaining_calls :
    (capRxRemaining s).2.calls = ⟨.rxRemaining, 0#24, 0#24, (capRxRemaining s).1⟩ :: s.calls := by
  unfold capRxRemaining; split <;> rfl

/-- The armed batch and the line do not depend on `Cap.startTx`. -/
@[simp] theorem afterStartTx_rxBatch (off len : Idx) (c : EnvChoice) (e : Env) :
    (e.afterStartTx off len c).rxBatch = e.rxBatch := by
  unfold Env.afterStartTx Env.unspecifiedButBatch; split
  · rfl
  · split <;> rfl
@[simp] theorem afterStartTx_rxLine (off len : Idx) (c : EnvChoice) (e : Env) :
    (e.afterStartTx off len c).rxLine = e.rxLine := by
  unfold Env.afterStartTx Env.unspecifiedButBatch; split
  · rfl
  · split <;> rfl

/-- `Cap.startTx` with no run in flight (spec/43_capability_calls.md R214). -/
theorem afterStartTx_none {off len : Idx} {c : EnvChoice} {e : Env} (h : e.txRun = none) :
    e.afterStartTx off len c = if isErr c.resp then e else { e with txRun := some ⟨off, len⟩ } := by
  simp [Env.afterStartTx, h]

end Sys2Proof.Machine
end

