-- ==== Sys2Proof/Laws/Actions.lean ====
section
/-! SUPPORT. What the internal actions can do: Submit and ContinueAction (spec/40_tx_engine.md R123, R124), RefreshAction and the rearm
(spec/41_rx_engine.md R153, R158). -/

namespace Sys2Proof.Machine

/-! Fields that Submit and ContinueAction never touch -/

@[simp] theorem submit_params (s : State) (h len : Idx) : (submit h len s).2.params = s.params := by unfold submit; dsimp only; split <;> rfl
@[simp] theorem submit_txBuf (s : State) (h len : Idx) : (submit h len s).2.txBuf = s.txBuf := by unfold submit; dsimp only; split <;> rfl
@[simp] theorem submit_rxBuf (s : State) (h len : Idx) : (submit h len s).2.rxBuf = s.rxBuf := by unfold submit; dsimp only; split <;> rfl
@[simp] theorem submit_txHead (s : State) (h len : Idx) : (submit h len s).2.txHead = s.txHead := by unfold submit; dsimp only; split <;> rfl
@[simp] theorem submit_txTail (s : State) (h len : Idx) : (submit h len s).2.txTail = s.txTail := by unfold submit; dsimp only; split <;> rfl
@[simp] theorem submit_rxHead (s : State) (h len : Idx) : (submit h len s).2.rxHead = s.rxHead := by unfold submit; dsimp only; split <;> rfl
@[simp] theorem submit_rxTail (s : State) (h len : Idx) : (submit h len s).2.rxTail = s.rxTail := by unfold submit; dsimp only; split <;> rfl
@[simp] theorem submit_rxOrg (s : State) (h len : Idx) : (submit h len s).2.rxOrg = s.rxOrg := by unfold submit; dsimp only; split <;> rfl
@[simp] theorem submit_rxSize (s : State) (h len : Idx) : (submit h len s).2.rxSize = s.rxSize := by unfold submit; dsimp only; split <;> rfl
@[simp] theorem submit_inited (s : State) (h len : Idx) : (submit h len s).2.inited = s.inited := by unfold submit; dsimp only; split <;> rfl
@[simp] theorem submit_caps (s : State) (h len : Idx) : (submit h len s).2.caps = s.caps := by unfold submit; dsimp only; split <;> rfl
@[simp] theorem submit_flags (s : State) (h len : Idx) : (submit h len s).2.flags = s.flags := by unfold submit; dsimp only; split <;> rfl
@[simp] theorem submit_appSeq (s : State) (h len : Idx) : (submit h len s).2.appSeq = s.appSeq := by unfold submit; dsimp only; split <;> rfl
@[simp] theorem submit_appSrc (s : State) (h len : Idx) : (submit h len s).2.appSrc = s.appSrc := by unfold submit; dsimp only; split <;> rfl
@[simp] theorem submit_out (s : State) (h len : Idx) : (submit h len s).2.out = s.out := by unfold submit; dsimp only; split <;> rfl
@[simp] theorem submit_inputs (s : State) (h len : Idx) : (submit h len s).2.inputs = s.inputs := by unfold submit; dsimp only; split <;> rfl

@[simp] theorem continueAction_params (s : State) : (continueAction s).2.params = s.params := by
  unfold continueAction; split <;> [rfl; (split <;> [rfl; exact submit_params ..])]
@[simp] theorem continueAction_txBuf (s : State) : (continueAction s).2.txBuf = s.txBuf := by
  unfold continueAction; split <;> [rfl; (split <;> [rfl; exact submit_txBuf ..])]
@[simp] theorem continueAction_rxBuf (s : State) : (continueAction s).2.rxBuf = s.rxBuf := by
  unfold continueAction; split <;> [rfl; (split <;> [rfl; exact submit_rxBuf ..])]
@[simp] theorem continueAction_txHead (s : State) : (continueAction s).2.txHead = s.txHead := by
  unfold continueAction; split <;> [rfl; (split <;> [rfl; exact submit_txHead ..])]
@[simp] theorem continueAction_txTail (s : State) : (continueAction s).2.txTail = s.txTail := by
  unfold continueAction; split <;> [rfl; (split <;> [rfl; exact submit_txTail ..])]
@[simp] theorem continueAction_rxHead (s : State) : (continueAction s).2.rxHead = s.rxHead := by
  unfold continueAction; split <;> [rfl; (split <;> [rfl; exact submit_rxHead ..])]
@[simp] theorem continueAction_rxTail (s : State) : (continueAction s).2.rxTail = s.rxTail := by
  unfold continueAction; split <;> [rfl; (split <;> [rfl; exact submit_rxTail ..])]
@[simp] theorem continueAction_rxOrg (s : State) : (continueAction s).2.rxOrg = s.rxOrg := by
  unfold continueAction; split <;> [rfl; (split <;> [rfl; exact submit_rxOrg ..])]
@[simp] theorem continueAction_rxSize (s : State) : (continueAction s).2.rxSize = s.rxSize := by
  unfold continueAction; split <;> [rfl; (split <;> [rfl; exact submit_rxSize ..])]
@[simp] theorem continueAction_inited (s : State) : (continueAction s).2.inited = s.inited := by
  unfold continueAction; split <;> [rfl; (split <;> [rfl; exact submit_inited ..])]
@[simp] theorem continueAction_caps (s : State) : (continueAction s).2.caps = s.caps := by
  unfold continueAction; split <;> [rfl; (split <;> [rfl; exact submit_caps ..])]
@[simp] theorem continueAction_flags (s : State) : (continueAction s).2.flags = s.flags := by
  unfold continueAction; split <;> [rfl; (split <;> [rfl; exact submit_flags ..])]
@[simp] theorem continueAction_appSeq (s : State) : (continueAction s).2.appSeq = s.appSeq := by
  unfold continueAction; split <;> [rfl; (split <;> [rfl; exact submit_appSeq ..])]
@[simp] theorem continueAction_appSrc (s : State) : (continueAction s).2.appSrc = s.appSrc := by
  unfold continueAction; split <;> [rfl; (split <;> [rfl; exact submit_appSrc ..])]
@[simp] theorem continueAction_out (s : State) : (continueAction s).2.out = s.out := by
  unfold continueAction; split <;> [rfl; (split <;> [rfl; exact submit_out ..])]
@[simp] theorem continueAction_inputs (s : State) : (continueAction s).2.inputs = s.inputs := by
  unfold continueAction; split <;> [rfl; (split <;> [rfl; exact submit_inputs ..])]

/-! Fields that the rearm never touches -/

@[simp] theorem rearm_params (s : State) : (rearm s).2.params = s.params := by unfold rearm; dsimp only; split <;> rfl
@[simp] theorem rearm_txBuf (s : State) : (rearm s).2.txBuf = s.txBuf := by unfold rearm; dsimp only; split <;> rfl
@[simp] theorem rearm_rxBuf (s : State) : (rearm s).2.rxBuf = s.rxBuf := by unfold rearm; dsimp only; split <;> rfl
@[simp] theorem rearm_txHead (s : State) : (rearm s).2.txHead = s.txHead := by unfold rearm; dsimp only; split <;> rfl
@[simp] theorem rearm_txTail (s : State) : (rearm s).2.txTail = s.txTail := by unfold rearm; dsimp only; split <;> rfl
@[simp] theorem rearm_txRun (s : State) : (rearm s).2.txRun = s.txRun := by unfold rearm; dsimp only; split <;> rfl
@[simp] theorem rearm_txLen (s : State) : (rearm s).2.txLen = s.txLen := by unfold rearm; dsimp only; split <;> rfl
@[simp] theorem rearm_rxHead (s : State) : (rearm s).2.rxHead = s.rxHead := by unfold rearm; dsimp only; split <;> rfl
@[simp] theorem rearm_rxTail (s : State) : (rearm s).2.rxTail = s.rxTail := by unfold rearm; dsimp only; split <;> rfl
@[simp] theorem rearm_inited (s : State) : (rearm s).2.inited = s.inited := by unfold rearm; dsimp only; split <;> rfl
@[simp] theorem rearm_caps (s : State) : (rearm s).2.caps = s.caps := by unfold rearm; dsimp only; split <;> rfl
@[simp] theorem rearm_flags (s : State) : (rearm s).2.flags = s.flags := by unfold rearm; dsimp only; split <;> rfl
@[simp] theorem rearm_appSeq (s : State) : (rearm s).2.appSeq = s.appSeq := by unfold rearm; dsimp only; split <;> rfl
@[simp] theorem rearm_appSrc (s : State) : (rearm s).2.appSrc = s.appSrc := by unfold rearm; dsimp only; split <;> rfl
@[simp] theorem rearm_out (s : State) : (rearm s).2.out = s.out := by unfold rearm; dsimp only; split <;> rfl
@[simp] theorem rearm_inputs (s : State) : (rearm s).2.inputs = s.inputs := by unfold rearm; dsimp only; split <;> rfl

/-- Submit whose start fails: the state pair is undone, the error is the result (spec/40_tx_engine.md R124). -/
theorem submit_failed {s : State} {h len : Idx} (he : isErr s.choice.resp = true) :
    submit h len s = (s.choice.resp, (capStartTx h len (s.enterRunning len)).2.leaveRunning) := by
  have hc : (s.enterRunning len).choice = s.choice := rfl
  simp [submit, hc, he]

/-- Submit whose start succeeds: Running with the length of the run, result `Ok` (spec/40_tx_engine.md R124). -/
theorem submit_started {s : State} {h len : Idx} (he : isErr s.choice.resp = false) :
    submit h len s = (codeWord .ok, (capStartTx h len (s.enterRunning len)).2) := by
  have hc : (s.enterRunning len).choice = s.choice := rfl
  simp [submit, hc, he]

/-- Everything ContinueAction can do (spec/40_tx_engine.md R123, R124, R128): nothing, a failed start or a started run. -/
theorem continueAction_cases (s : State) :
    ((s.txRun = true ∨ s.txHead = s.txTail) ∧ continueAction s = (codeWord .ok, s)) ∨
    (s.txRun = false ∧ s.txHead ≠ s.txTail ∧ isErr s.choice.resp = true ∧
      continueAction s = (s.choice.resp,
        (capStartTx s.txHead (idxOf (runLen s.params s.txHead s.txTail))
          (s.enterRunning (idxOf (runLen s.params s.txHead s.txTail)))).2.leaveRunning)) ∨
    (s.txRun = false ∧ s.txHead ≠ s.txTail ∧ isErr s.choice.resp = false ∧
      continueAction s = (codeWord .ok,
        (capStartTx s.txHead (idxOf (runLen s.params s.txHead s.txTail))
          (s.enterRunning (idxOf (runLen s.params s.txHead s.txTail)))).2)) := by
  unfold continueAction
  cases hr : s.txRun
  · by_cases hq : s.txHead = s.txTail
    · simp [hq]
    · cases he : isErr s.choice.resp
      · exact .inr (.inr ⟨rfl, hq, rfl, by simp [hq, submit_started he]⟩)
      · exact .inr (.inl ⟨rfl, hq, rfl, by simp [hq, submit_failed he]⟩)
  · simp

/-- ContinueAction never touches the armed batch or the line. -/
@[simp] theorem continueAction_env_rxBatch (s : State) : (continueAction s).2.env.rxBatch = s.env.rxBatch := by
  rcases continueAction_cases s with ⟨_, e⟩ | ⟨_, _, _, e⟩ | ⟨_, _, _, e⟩ <;> rw [e] <;> simp
@[simp] theorem continueAction_env_rxLine (s : State) : (continueAction s).2.env.rxLine = s.env.rxLine := by
  rcases continueAction_cases s with ⟨_, e⟩ | ⟨_, _, _, e⟩ | ⟨_, _, _, e⟩ <;> rw [e] <;> simp

/-- The result of ContinueAction is an error exactly when it made a start that failed, and `Ok` otherwise. -/
theorem continueAction_result (s : State) :
    (continueAction s).1 = codeWord .ok ∨ isErr (continueAction s).1 = true := by
  rcases continueAction_cases s with ⟨_, e⟩ | ⟨_, _, h, e⟩ | ⟨_, _, _, e⟩ <;> rw [e]
  · exact .inl rfl
  · exact .inr h
  · exact .inl rfl

/-- What RefreshAction answers when it answers (spec/41_rx_engine.md R153, R161). -/
theorem refreshAction_some {s t : State} {r : Word} (h : refreshAction s = some (r, t)) :
    r = (capRxRemaining s).1 ∧ r.toNat ≤ s.rxSize.toNat ∧ t = (capRxRemaining s).2.refreshTail r := by
  unfold refreshAction at h
  dsimp only at h
  split at h
  · simp only [Option.some.injEq, Prod.mk.injEq] at h
    obtain ⟨rfl, rfl⟩ := h
    exact ⟨rfl, ‹_›, rfl⟩
  · cases h

theorem refreshAction_none {s : State} : refreshAction s = none ↔ s.rxSize.toNat < (capRxRemaining s).1.toNat := by
  unfold refreshAction
  dsimp only
  split <;> simp <;> omega

theorem refreshAction_of_le {s : State} (h : (capRxRemaining s).1.toNat ≤ s.rxSize.toNat) :
    refreshAction s = some ((capRxRemaining s).1, (capRxRemaining s).2.refreshTail (capRxRemaining s).1) := by
  unfold refreshAction; simp [h]

/-- RefreshAction with a batch armed whose `rem` keeps the contract (spec/43_capability_calls.md R212). -/
theorem refreshAction_armed {s : State} {b : Batch} (hb : s.env.rxBatch = some b) (hr : b.rem.toNat ≤ s.rxSize.toNat) :
    refreshAction s = some (countWord b.rem,
      (s.logCall .rxRemaining 0#24 0#24 (countWord b.rem)).refreshTail (countWord b.rem)) := by
  have := refreshAction_of_le (s := s) (by simpa [capRxRemaining_armed hb, countWord_toNat] using hr)
  simpa [capRxRemaining_armed hb] using this

/-- The rearm never touches ENV's transmit side, its events or its line. -/
@[simp] theorem rearm_env_txRun (s : State) : (rearm s).2.env.txRun = s.env.txRun := by
  unfold rearm; dsimp only; split <;> simp
@[simp] theorem rearm_env_pend (s : State) : (rearm s).2.env.pend = s.env.pend := by
  unfold rearm; dsimp only; split <;> simp
@[simp] theorem rearm_env_txWire (s : State) : (rearm s).2.env.txWire = s.env.txWire := by
  unfold rearm; dsimp only; split <;> simp
@[simp] theorem rearm_env_rxLine (s : State) : (rearm s).2.env.rxLine = s.env.rxLine := by
  unfold rearm; dsimp only; split <;> simp

/-- Everything the rearm can do (spec/41_rx_engine.md R158, R159). -/
theorem rearm_cases (s : State) :
    (isErr s.choice.resp = true ∧ rearm s = (s.choice.resp,
      (capStartRx (idxOf (ringAdd s.rxOrg.toNat s.rxSize.toNat s.params.rxCap)) (idxOf s.params.rxCap) s).2)) ∨
    (isErr s.choice.resp = false ∧ rearm s = (codeWord .ok,
      { (capStartRx (idxOf (ringAdd s.rxOrg.toNat s.rxSize.toNat s.params.rxCap)) (idxOf s.params.rxCap) s).2 with
        rxOrg := idxOf (ringAdd s.rxOrg.toNat s.rxSize.toNat s.params.rxCap)
        rxSize := idxOf s.params.rxCap })) := by
  unfold rearm
  cases h : isErr s.choice.resp
  · exact .inr ⟨rfl, by simp [h]⟩
  · exact .inl ⟨rfl, by simp [h]⟩

end Sys2Proof.Machine
end

