-- ==== Sys2Proof/Laws/Decode.lean ====
section
/-! SUPPORT. The fields of a command word `OPC ++ ARG` (spec/30_encoding.md R91), each read back once. -/

namespace Sys2Proof

theorem append_toNat (opc : BitVec 8) (arg : Idx) : (opc ++ arg : Word).toNat = opc.toNat * 2 ^ 24 + arg.toNat := by
  rw [BitVec.toNat_append, ← Nat.shiftLeft_add_eq_or_of_lt arg.isLt, Nat.shiftLeft_eq]

@[simp] theorem opcOf_toNat (cw : Word) : (opcOf cw).toNat = cw.toNat / 2 ^ 24 := by
  have := cw.isLt
  simp only [opcOf, BitVec.extractLsb'_toNat, Nat.shiftRight_eq_div_pow]
  omega

@[simp] theorem argOf_toNat (cw : Word) : (argOf cw).toNat = cw.toNat % 2 ^ 24 := by
  simp only [argOf, BitVec.extractLsb'_toNat, Nat.shiftRight_eq_div_pow, Nat.pow_zero, Nat.div_one]

@[simp] theorem opcOf_append (opc : BitVec 8) (arg : Idx) : opcOf (opc ++ arg) = opc := by
  apply BitVec.eq_of_toNat_eq
  rw [opcOf_toNat, append_toNat]
  have := arg.isLt
  omega

@[simp] theorem argOf_append (opc : BitVec 8) (arg : Idx) : argOf (opc ++ arg) = arg := by
  apply BitVec.eq_of_toNat_eq
  rw [argOf_toNat, append_toNat]
  have := arg.isLt
  omega

theorem opcOf_append_argOf (cw : Word) : opcOf cw ++ argOf cw = cw := by
  apply BitVec.eq_of_toNat_eq
  rw [append_toNat, opcOf_toNat, argOf_toNat]
  omega

/-- The `PORT` bit is the top bit of `OPC` (spec/30_encoding.md R91). -/
theorem portOf_eq (cw : Word) : portOf cw = if 0x80 ≤ (opcOf cw).toNat then .irq else .app := by
  have := cw.isLt
  have h : cw.getLsbD 31 = decide (0x80 ≤ (opcOf cw).toNat) := by
    rw [opcOf_toNat, BitVec.getLsbD, Nat.testBit_eq_decide_div_mod_eq]
    congr 1
    exact propext (by omega)
  simp only [portOf, h, decide_eq_true_eq]

end Sys2Proof
end

