-- ==== Sys2Proof/Laws/Exec.lean ====
section
/-! SUPPORT. Everything each meaning can do when it answers a next state, once per meaning; later proofs cite these and unfold
nothing. -/

namespace Sys2Proof.Machine

variable {s t : State}

/-- Uninitialised, an operation on `port` only answers `NotInitialized` (spec/60_exceptions.md R244). -/
def AnsweredUninit (port : Port) (s t : State) : Prop :=
  s.inited = false ∧ t = s.answer port (codeWord .notInitialized)

/-- INIT (spec/42_device_lifecycle.md R181 to R184). -/
theorem execInit_next {m : BitVec 6} (h : execInit m s = .next t) :
    s.appSeq = .idle ∧
    ((s.inited = true ∧ t = s.answerApp (codeWord .busy) []) ∨
     (s.inited = false ∧ suppliesMandatory s.params m = false ∧ t = s.answerApp (codeWord .invalidArgument) []) ∨
     (s.inited = false ∧ suppliesMandatory s.params m = true ∧ isErr s.choice.resp = true ∧
       t = (capStartRx 0#24 (idxOf s.params.rxCap) s).2.answerApp s.choice.resp []) ∨
     (s.inited = false ∧ suppliesMandatory s.params m = true ∧ isErr s.choice.resp = false ∧
       t = ((capStartRx 0#24 (idxOf s.params.rxCap) s).2.zeroed m).answerApp (codeWord .ok) [])) := by
  obtain ⟨hi, h⟩ := whenIdle_next h
  refine ⟨hi, ?_⟩
  simp only [Host.Outcome.next.injEq] at h
  subst h
  unfold initBody
  cases s.inited <;> cases suppliesMandatory s.params m <;> cases he : isErr s.choice.resp <;> simp [he]

/-- GETFLAGS (spec/42_device_lifecycle.md R186). -/
theorem execGetFlags_next (h : execGetFlags s = .next t) :
    s.appSeq = .idle ∧ (AnsweredUninit .app s t ∨ (s.inited = true ∧ t = s.answerApp (flagsWord s.flags) [])) := by
  obtain ⟨hi, h⟩ := whenIdle_next h
  refine ⟨hi, (whenInited_next h).imp_right fun ⟨h1, h2⟩ => ⟨h1, ?_⟩⟩
  simpa using h2.symm

/-- CONTINUE (spec/40_tx_engine.md R123). -/
theorem execCont_next (h : execCont s = .next t) :
    s.appSeq = .idle ∧ (AnsweredUninit .app s t ∨
      (s.inited = true ∧ t = (continueAction s).2.answerApp (continueAction s).1 [])) := by
  obtain ⟨hi, h⟩ := whenIdle_next h
  refine ⟨hi, (whenInited_next h).imp_right fun ⟨h1, h2⟩ => ⟨h1, ?_⟩⟩
  simpa using h2.symm

/-- ABORT_TX (spec/40_tx_engine.md R126). -/
theorem execAbortTx_next (h : execAbortTx s = .next t) :
    s.appSeq = .idle ∧ (AnsweredUninit .app s t ∨ (s.inited = true ∧ t = (capAbortTx s.leaveRunning).2.answerApp
      (if isErr (abortTxResponse s.leaveRunning) then abortTxResponse s.leaveRunning else codeWord .ok) [])) := by
  obtain ⟨hi, h⟩ := whenIdle_next h
  refine ⟨hi, (whenInited_next h).imp_right fun ⟨h1, h2⟩ => ⟨h1, ?_⟩⟩
  exact (Host.Outcome.next.inj h2).symm

/-- TEARDOWN (spec/42_device_lifecycle.md R187). -/
theorem execTeardown_next (h : execTeardown s = .next t) :
    s.appSeq = .idle ∧ (AnsweredUninit .app s t ∨ (s.inited = true ∧
      t = { (capAbortRx (capAbortTx s.leaveRunning).2).2 with inited := false }.answerApp
        (firstError (capAbortTx s.leaveRunning).1 (capAbortRx (capAbortTx s.leaveRunning).2).1) [])) := by
  obtain ⟨hi, h⟩ := whenIdle_next h
  refine ⟨hi, (whenInited_next h).imp_right fun ⟨h1, h2⟩ => ⟨h1, ?_⟩⟩
  simpa using h2.symm

/-- TX_COMPLETE (spec/40_tx_engine.md R125, R127). -/
theorem execTxComplete_next (h : execTxComplete s = .next t) :
    AnsweredUninit .irq s t ∨
    (s.inited = true ∧ s.txRun = false ∧ t = s.answerIrq (codeWord .ok)) ∨
    (s.inited = true ∧ s.txRun = true ∧
      t = (continueAction s.creditRun).2.answerIrq (continueAction s.creditRun).1) := by
  refine (whenInited_next h).imp_right fun ⟨h1, h2⟩ => ?_
  cases hr : s.txRun
  · exact .inl ⟨h1, rfl, by simpa [hr] using h2.symm⟩
  · exact .inr ⟨h1, rfl, by simpa [hr] using h2.symm⟩

theorem refreshAndAnswer_next (h : refreshAndAnswer s = .next t) :
    (capRxRemaining s).1.toNat ≤ s.rxSize.toNat ∧
      t = ((capRxRemaining s).2.refreshTail (capRxRemaining s).1).answerIrq (codeWord .ok) := by
  unfold refreshAndAnswer at h
  by_cases hr : (capRxRemaining s).1.toNat ≤ s.rxSize.toNat
  · rw [refreshAction_of_le hr] at h
    exact ⟨hr, by simpa using h.symm⟩
  · rw [refreshAction_none.2 (by omega)] at h; cases h

/-- IDLE_LINE (spec/41_rx_engine.md R154). -/
theorem execIdleLine_next (h : execIdleLine s = .next t) :
    AnsweredUninit .irq s t ∨ (s.inited = true ∧ (capRxRemaining s).1.toNat ≤ s.rxSize.toNat ∧
      t = ((capRxRemaining s).2.refreshTail (capRxRemaining s).1).answerIrq (codeWord .ok)) :=
  (whenInited_next h).imp_right fun ⟨h1, h2⟩ => ⟨h1, refreshAndAnswer_next h2⟩

/-- RX_HALF (spec/41_rx_engine.md R162). -/
theorem execRxHalf_next (h : execRxHalf s = .next t) :
    AnsweredUninit .irq s t ∨ (s.inited = true ∧ (capRxRemaining s).1.toNat ≤ s.rxSize.toNat ∧
      t = ((capRxRemaining s).2.refreshTail (capRxRemaining s).1).answerIrq (codeWord .ok)) :=
  (whenInited_next h).imp_right fun ⟨h1, h2⟩ => ⟨h1, refreshAndAnswer_next h2⟩

/-- RX_COMPLETE (spec/41_rx_engine.md R158, R159): with `u` the refreshed state, progress only or a rearm. -/
theorem execRxComplete_next (h : execRxComplete s = .next t) :
    AnsweredUninit .irq s t ∨ (s.inited = true ∧ (capRxRemaining s).1.toNat ≤ s.rxSize.toNat ∧
      (((capRxRemaining s).1 ≠ 0#32 ∧
        t = ((capRxRemaining s).2.refreshTail (capRxRemaining s).1).answerIrq (codeWord .ok)) ∨
       ((capRxRemaining s).1 = 0#32 ∧
        t = (rearm ((capRxRemaining s).2.refreshTail 0#32)).2.answerIrq
          (rearm ((capRxRemaining s).2.refreshTail 0#32)).1))) := by
  refine (whenInited_next h).imp_right fun ⟨h1, h2⟩ => ⟨h1, ?_⟩
  by_cases hr : (capRxRemaining s).1.toNat ≤ s.rxSize.toNat
  · rw [refreshAction_of_le hr] at h2
    refine ⟨hr, ?_⟩
    by_cases h0 : (capRxRemaining s).1 = 0#32
    · exact .inr ⟨h0, by simpa [h0] using h2.symm⟩
    · exact .inl ⟨h0, by simpa [h0] using h2.symm⟩
  · rw [refreshAction_none.2 (by omega)] at h2; cases h2

/-- ENQUEUE, the step at which APP stands (spec/40_tx_engine.md R120 to R122). -/
theorem execEnqueue_next {len : Idx} (h : execEnqueue len s = .next t) :
    (s.appSeq = .idle ∧ AnsweredUninit .app s t) ∨
    (s.appSeq = .idle ∧ s.inited = true ∧ s.appSrc.length = len.toNat ∧
      min len.toNat (txFree s.params s.txHead s.txTail) = 0 ∧
      t = { s with flags := setShort (decide (0 < len.toNat)) s.flags }.answerApp (codeWord .ok) []) ∨
    (s.appSeq = .idle ∧ s.inited = true ∧ s.appSrc.length = len.toNat ∧
      min len.toNat (txFree s.params s.txHead s.txTail) ≠ 0 ∧
      t = s.standAt (.enqueue .e2 ⟨len, s.appSrc, s.txTail, idxOf (min len.toNat (txFree s.params s.txHead s.txTail))⟩)) ∨
    (∃ v, s.appSeq = .enqueue .e2 v ∧ ringInRange v.t.toNat (v.src.take v.n.toNat).length s.params.txCap = true ∧
      t = { s with txBuf := ringWrite s.txBuf v.t.toNat s.params.txCap (v.src.take v.n.toNat) }.standAt (.enqueue .e3 v)) ∨
    (∃ v, s.appSeq = .enqueue .e3 v ∧ t = enqueueE3 v s) ∨
    (∃ v, s.appSeq = .enqueue .e4 v ∧ t = enqueueE4 v s) := by
  unfold execEnqueue at h
  split at h
  · rename_i hq
    rcases whenInited_next h with h1 | ⟨h1, h2⟩
    · exact .inl ⟨hq, h1⟩
    · unfold enqueueE1 at h2
      by_cases hl : s.appSrc.length = len.toNat
      · by_cases hn : min len.toNat (txFree s.params s.txHead s.txTail) = 0
        · exact .inr (.inl ⟨hq, h1, hl, hn, by simpa [hl, hn] using h2.symm⟩)
        · exact .inr (.inr (.inl ⟨hq, h1, hl, hn, by simpa only [hl, hn, ne_eq, not_true_eq_false, if_false, Host.Outcome.next.injEq] using h2.symm⟩))
      · simp [hl] at h2
  · rename_i v hq
    unfold enqueueE2 at h
    split at h
    · exact .inr (.inr (.inr (.inl ⟨v, hq, ‹_›, by simpa using h.symm⟩)))
    · cases h
  · exact .inr (.inr (.inr (.inr (.inl ⟨_, ‹_›, by simpa using h.symm⟩))))
  · exact .inr (.inr (.inr (.inr (.inr ⟨_, ‹_›, by simpa using h.symm⟩))))
  all_goals cases h

/-- READ, the step at which APP stands (spec/41_rx_engine.md R155 to R157). -/
theorem execRead_next {maxLen : Idx} (h : execRead maxLen s = .next t) :
    (s.appSeq = .idle ∧ AnsweredUninit .app s t) ∨
    (s.appSeq = .idle ∧ s.inited = true ∧ (capRxRemaining s).1.toNat ≤ s.rxSize.toNat ∧
      t = ((capRxRemaining s).2.refreshTail (capRxRemaining s).1).standAt (.readR2 maxLen)) ∨
    (∃ m, s.appSeq = .readR2 m ∧ t = readR2 m s) ∨
    (∃ m h n, s.appSeq = .readR3 m h n ∧ ringInRange h.toNat n.toNat s.params.rxCap = true ∧
      t = s.standAt (.readR4 m h n (ringRead .rxBuf s.rxBuf h.toNat n.toNat s.params.rxCap))) ∨
    (∃ m h n dst, s.appSeq = .readR4 m h n dst ∧ t = readR4 m h n dst s) := by
  unfold execRead at h
  split at h
  · rename_i hq
    rcases whenInited_next h with h1 | ⟨h1, h2⟩
    · exact .inl ⟨hq, h1⟩
    · unfold readR1 at h2
      by_cases hr : (capRxRemaining s).1.toNat ≤ s.rxSize.toNat
      · rw [refreshAction_of_le hr] at h2
        exact .inr (.inl ⟨hq, h1, hr, by simpa using h2.symm⟩)
      · rw [refreshAction_none.2 (by omega)] at h2; cases h2
  · exact .inr (.inr (.inl ⟨_, ‹_›, by simpa using h.symm⟩))
  · rename_i m hh n hq
    unfold readR3 at h
    split at h
    · exact .inr (.inr (.inr (.inl ⟨m, hh, n, hq, ‹_›, by simpa using h.symm⟩)))
    · cases h
  · exact .inr (.inr (.inr (.inr ⟨_, _, _, _, ‹_›, by simpa using h.symm⟩)))
  all_goals cases h

/-- READ's step R2 (spec/41_rx_engine.md R156). -/
theorem readR2_cases (m : Idx) (s : State) :
    (min m.toNat (rxAvail s.params s.rxHead s.rxTail) = 0 ∧
      readR2 m s = { s with flags := setShort (decide (0 < m.toNat)) s.flags }.answerApp (codeWord .ok) []) ∨
    (min m.toNat (rxAvail s.params s.rxHead s.rxTail) ≠ 0 ∧
      readR2 m s = s.standAt (.readR3 m s.rxHead (idxOf (min m.toNat (rxAvail s.params s.rxHead s.rxTail))))) := by
  by_cases hn : min m.toNat (rxAvail s.params s.rxHead s.rxTail) = 0
  · exact .inl ⟨hn, by unfold readR2; simp only [hn, if_true]⟩
  · exact .inr ⟨hn, by unfold readR2; simp only [hn, if_false]⟩

/-- FLUSH, the step at which APP stands (spec/42_device_lifecycle.md R185). -/
theorem execFlush_next {timeout : Idx} (h : execFlush timeout s = .next t) :
    (s.appSeq = .idle ∧ AnsweredUninit .app s t) ∨
    (s.appSeq = .idle ∧ s.inited = true ∧ t = flushF1 timeout s) ∨
    (∃ m, s.appSeq = .flushF2 m ∧ t = flushF2 m s) ∨
    (∃ m t0, s.appSeq = .flushF3 m t0 ∧ t = flushF3 m t0 s) := by
  unfold execFlush at h
  split at h
  · rename_i hq
    rcases whenInited_next h with h1 | ⟨h1, h2⟩
    · exact .inl ⟨hq, h1⟩
    · exact .inr (.inl ⟨hq, h1, by simpa using h2.symm⟩)
  · exact .inr (.inr (.inl ⟨_, ‹_›, by simpa using h.symm⟩))
  · exact .inr (.inr (.inr ⟨_, _, ‹_›, by simpa using h.symm⟩))
  all_goals cases h

/-- FLUSH's step F1: each way it ends (spec/42_device_lifecycle.md R185). -/
theorem flushF1_cases (timeout : Idx) (s : State) :
    (s.txHead = s.txTail ∧ flushF1 timeout s = s.answerApp (codeWord .ok) []) ∨
    (s.txHead ≠ s.txTail ∧ s.params.timeout = false ∧ flushF1 timeout s = s.answerApp (codeWord .notSupported) []) ∨
    (s.txHead ≠ s.txTail ∧ s.params.timeout = true ∧ flushF1 timeout s = s.standAt (.flushF2 timeout)) := by
  unfold flushF1
  by_cases h : s.txHead = s.txTail <;> cases ht : s.params.timeout <;> simp [h]

/-- FLUSH's step F3: each way one pass ends (spec/42_device_lifecycle.md R185). -/
theorem flushF3_cases (timeout : Idx) (t0 : Timestamp) (s : State) :
    (s.txHead = s.txTail ∧ flushF3 timeout t0 s = s.answerApp (codeWord .ok) []) ∨
    (s.txHead ≠ s.txTail ∧ timeout.toNat ≤ elapsed t0 s.env.now ∧
      flushF3 timeout t0 s = (capNowMillis s).2.answerApp (codeWord .timeout) []) ∨
    (s.txHead ≠ s.txTail ∧ elapsed t0 s.env.now < timeout.toNat ∧
      flushF3 timeout t0 s = (capNowMillis s).2.standAt (.flushF3 timeout t0)) := by
  unfold flushF3
  by_cases h : s.txHead = s.txTail
  · simp [h]
  · by_cases he : timeout.toNat ≤ elapsed t0 s.env.now
    · simp [h, he]
    · exact .inr (.inr ⟨h, by omega, by simp [h, he]⟩)

/-- ENQUEUE's step E4 (spec/40_tx_engine.md R122): result, or error with the tail rolled back. -/
theorem enqueueE4_cases (v : EnqueueLocals) (s : State) :
    (isErr (continueAction s).1 = false ∧ enqueueE4 v s =
      { (continueAction s).2 with flags := setShort (isShort v.n v.len) s.flags }.answerApp (countWord v.n) []) ∨
    (isErr (continueAction s).1 = true ∧ enqueueE4 v s =
      { (continueAction s).2 with txTail := rolledBackTail s.params s.txHead v.t s.txTail }.answerApp
        (continueAction s).1 []) := by
  unfold enqueueE4
  cases h : isErr (continueAction s).1 with
  | false => exact .inl ⟨rfl, by simp [h]⟩
  | true => exact .inr ⟨rfl, by simp [h]⟩

/-! ENV's actions (spec/43_capability_calls.md R219) -/

theorem envRx_next {b : Byte} (h : envRx b s = .next t) :
    ((s.env.rxBatch = none ∨ ∃ x, s.env.rxBatch = some x ∧ x.rem = 0#24) ∧ t = s) ∨
    (∃ x, s.env.rxBatch = some x ∧ x.rem ≠ 0#24 ∧ x.off.toNat + (x.len.toNat - x.rem.toNat) < s.params.rxCap ∧
      t = storeArrival x b s) := by
  unfold envRx at h
  split at h
  · exact .inl ⟨.inl ‹_›, by simpa using h.symm⟩
  · rename_i x hx
    split at h
    · exact .inl ⟨.inr ⟨x, hx, ‹_›⟩, by simpa using h.symm⟩
    · split at h
      · exact .inr ⟨x, hx, ‹_›, ‹_›, by simpa using h.symm⟩
      · cases h

theorem envTxDone_next (h : envTxDone s = .next t) :
    ∃ r, s.env.txRun = some r ∧ r.off.toNat + r.len.toNat ≤ s.params.txCap ∧ t = completeRun r s := by
  unfold envTxDone at h
  split at h
  · cases h
  · split at h
    · exact ⟨_, ‹_›, ‹_›, by simpa using h.symm⟩
    · cases h

theorem envHalf_next (h : envHalf s = .next t) :
    (∃ b, s.env.rxBatch = some b) ∧ t = { s with env := { s.env with pend := s.env.pend.put true .rxHalf } } := by
  unfold envHalf at h
  split at h
  · cases h
  · exact ⟨⟨_, ‹_›⟩, by simpa using h.symm⟩

/-! The moves of the schedule (spec/60_exceptions.md R250 to R254) -/

/-- A word at a port that answers a next state: its operation ran, or its decode error was answered (spec/30_encoding.md R95). -/
theorem runWord_next {port : Port} {cw : Word} (h : runWord port cw s = .next t) :
    (∃ i, decode port cw = .ok i ∧ exec i s = .next t) ∨
    (∃ c, (decode port cw = .notSupported ∧ c = Code.notSupported ∨ decode port cw = .invalidArgument ∧ c = Code.invalidArgument) ∧
      t = s.answer port (codeWord c)) := by
  unfold runWord at h
  split at h
  · exact .inl ⟨_, ‹_›, h⟩
  · exact .inr ⟨_, .inl ⟨‹_›, rfl⟩, by simpa using h.symm⟩
  · exact .inr ⟨_, .inr ⟨‹_›, rfl⟩, by simpa using h.symm⟩

/-- Everything one step can do when it answers a next state. -/
theorem step_next (h : step s = .next t) :
    (s.inputs = [] ∧ s.appSeq = .idle ∧ t = s) ∨
    (s.inputs = [] ∧ ∃ i, s.appSeq.current? = some i ∧ exec i s = .next t) ∨
    (∃ inp rest, s.inputs = inp :: rest ∧ runInput inp { s with inputs := rest } = .next t) := by
  unfold step at h
  split at h
  · unfold runUnscheduled at h
    split at h
    · refine .inl ⟨‹_›, ?_, by simpa using h.symm⟩
      cases hq : s.appSeq <;> simp_all [AppSeq.current?]
    · exact .inr (.inl ⟨‹_›, _, ‹_›, h⟩)
  · exact .inr (.inr ⟨_, _, ‹_›, h⟩)

/-- Everything a scheduled move can do when it answers a next state. -/
theorem runInput_next {inp : Input} (h : runInput inp s = .next t) :
    (∃ cw src, inp = .app cw src ∧ s.appSeq = .idle ∧ runWord .app cw { s with appSrc := src } = .next t) ∨
    (∃ i, inp = .appStep ∧ s.appSeq.current? = some i ∧ exec i s = .next t) ∨
    (∃ cw, inp = .irq cw ∧ runWord .irq cw s = .next t) ∨
    (∃ e, inp = .take e ∧ s.env.pend.get e = true ∧ exec e.instr (s.clearPend e) = .next t) ∨
    (∃ b, inp = .env (.rx b) ∧ envRx b s = .next t) ∨
    (inp = .env .txdone ∧ envTxDone s = .next t) ∨
    (inp = .env .idle ∧ t = envIdle s) ∨
    (inp = .env .half ∧ envHalf s = .next t) ∨
    (∃ k, inp = .env (.tick k) ∧ t = envTick k s) ∨
    (inp = .reset ∧ t = hardwareReset s) := by
  cases inp with
  | app cw src =>
    obtain ⟨h1, h2⟩ := whenIdle_next h
    exact .inl ⟨cw, src, rfl, h1, h2⟩
  | appStep =>
    simp only [runInput, appStep] at h
    split at h
    · cases h
    · exact .inr (.inl ⟨_, rfl, ‹_›, h⟩)
  | irq cw => exact .inr (.inr (.inl ⟨cw, rfl, h⟩))
  | take e =>
    simp only [runInput, takeEvent] at h
    split at h
    · exact .inr (.inr (.inr (.inl ⟨e, rfl, ‹_›, h⟩)))
    · cases h
  | env a =>
    cases a with
    | rx b => exact .inr (.inr (.inr (.inr (.inl ⟨b, rfl, h⟩))))
    | txdone => exact .inr (.inr (.inr (.inr (.inr (.inl ⟨rfl, h⟩)))))
    | idle => exact .inr (.inr (.inr (.inr (.inr (.inr (.inl ⟨rfl, by simpa [runInput, envAct] using h.symm⟩))))))
    | half => exact .inr (.inr (.inr (.inr (.inr (.inr (.inr (.inl ⟨rfl, h⟩)))))))
    | tick k =>
      exact .inr (.inr (.inr (.inr (.inr (.inr (.inr (.inr (.inl ⟨k, rfl, by simpa [runInput, envAct] using h.symm⟩))))))))
  | reset =>
    exact .inr (.inr (.inr (.inr (.inr (.inr (.inr (.inr (.inr ⟨rfl, by simpa [runInput] using h.symm⟩))))))))

end Sys2Proof.Machine
end

