-- ==== Sys2Proof/Laws/PerInstr.lean ====
section
/-! SUPPORT. Statements made per instruction: an operation's word carries exactly the fixed bits of its row of
spec/30_encoding.md R93 (`CW & mask = match`), whatever its operand. -/

namespace Sys2Proof.Laws.RowSelects

open Sys2Proof

/-- `encode i & mask = match`, the condition under which R93's row of `i` selects the word. -/
def Statement (i : Instr) : Prop := encode i &&& i.maskBits = i.matchBits

/-- An operand that fills `ARG` lies outside the fixed bits. -/
theorem opcode_mask (opc : BitVec 8) (arg : Idx) : (opc ++ arg : Word) &&& 0xFF000000#32 = opc ++ 0#24 := by
  rw [show (0xFF000000#32 : Word) = 0xFF#8 ++ 0#24 by decide, BitVec.and_append, BitVec.and_zero]
  congr 1
  exact BitVec.and_allOnes

theorem init (capMask : BitVec 6) : Statement (.init capMask) := by
  revert capMask; unfold Statement; decide

theorem enqueue (len : Idx) : Statement (.enqueue len) := (opcode_mask 0x02#8 len).trans rfl

theorem read (maxLen : Idx) : Statement (.read maxLen) := (opcode_mask 0x03#8 maxLen).trans rfl

theorem flush (timeoutMs : Idx) : Statement (.flush timeoutMs) := (opcode_mask 0x04#8 timeoutMs).trans rfl

theorem getFlags : Statement .getFlags := by unfold Statement; decide

theorem cont : Statement .cont := by unfold Statement; decide

theorem abortTx : Statement .abortTx := by unfold Statement; decide

theorem teardown : Statement .teardown := by unfold Statement; decide

theorem txComplete : Statement .txComplete := by unfold Statement; decide

theorem rxHalf : Statement .rxHalf := by unfold Statement; decide

theorem rxComplete : Statement .rxComplete := by unfold Statement; decide

theorem idleLine : Statement .idleLine := by unfold Statement; decide

end Sys2Proof.Laws.RowSelects
end

