-- ==== Sys2Proof/Tests/Slice0.lean ====
section
/-! SUPPORT. The model's own tests: the checks of WellFormed with ill-formed terms, words of spec/30_encoding.md R93 and
spec/95_test_vectors.md 2.2 through the decoder, at most two vectors of spec/95_test_vectors.md 2.3 to 2.8 per operation (one step
each), and for every statement with hypotheses a concrete state that meets them. -/

namespace Sys2Proof.Tests

open Sys2Proof Sys2Proof.Machine

/-! ## Small states -/

/-- The parameters of the vectors: `TX_CAP = 8`, `RX_CAP = 16`, `CFG_TIMEOUT = 1`. -/
def vecParams : Params := ⟨8, 16, true⟩

/-- An uninitialised block whose ENV answers its next call with `resp`. -/
def cold (resp : Word) : State := { State.resetWith vecParams with script := [{ resp := resp }] }

/-- An initialised block with the given transmit registers (`TXHEAD, TXTAIL, TXRUN, TXLEN`), the run in flight if Running, nothing
received, and ENV's responses in store. -/
def live (h t : Idx) (run : Bool) (len : Idx) (resps : List Word) : State :=
  { State.resetWith vecParams with
    txHead := h, txTail := t, txRun := run, txLen := len, rxSize := 16#24, inited := true, caps := 0x3F#6
    env := { Env.reset with txRun := if run then some ⟨h, len⟩ else none, rxBatch := some ⟨0#24, 16#24, 16#24⟩ }
    script := resps.map fun r => { resp := r } }

/-- The same with receive registers: `RXHEAD`, `RXTAIL` and the `rem` of the batch `(0, 16)`. -/
def liveRx (rh rt rem : Idx) (resps : List Word) : State :=
  { live 0#24 0#24 false 0#24 resps with
    rxHead := rh, rxTail := rt, env := { Env.reset with rxBatch := some ⟨0#24, 16#24, rem⟩ } }

/-- The next state, if there is one. -/
def got (o : Host.Outcome State Fault Refusal) : Option State :=
  match o with
  | .next t => some t
  | .fault _ => none
  | .refused _ => none

/-- What a vector shows of a next state: four registers (TXRUN as 0 or 1), the last result word, the last call. -/
structure View where
  regs : List Nat
  result : Option Word
  call : Option CapCall
  deriving DecidableEq, Repr

/-- `TXHEAD, TXTAIL, TXRUN, TXLEN` of a next state, with its last result and call. -/
def txView (o : Host.Outcome State Fault Refusal) : Option View :=
  (got o).map fun t =>
    ⟨[t.txHead.toNat, t.txTail.toNat, t.txRun.toNat, t.txLen.toNat], t.out.head?.map (·.word), t.calls.head?⟩

/-- `RXHEAD, RXTAIL, RXORG, RXSIZE` of a next state, with its last result and call. -/
def rxView (o : Host.Outcome State Fault Refusal) : Option View :=
  (got o).map fun t =>
    ⟨[t.rxHead.toNat, t.rxTail.toNat, t.rxOrg.toNat, t.rxSize.toNat], t.out.head?.map (·.word), t.calls.head?⟩

/-! ## WellFormed refuses ill-formed terms -/

theorem test_wf_flush : Command.WellFormed ⟨.app, .flush 5#24, []⟩ := by decide
theorem test_wf_enqueue : Command.WellFormed ⟨.app, .enqueue 2#24, [0x48#8, 0x49#8]⟩ := by decide
theorem test_wf_wrong_port : ¬ Command.OnItsPort ⟨.irq, .flush 5#24, []⟩ := by decide
theorem test_wf_event_on_app : ¬ Command.WellFormed ⟨.app, .txComplete, []⟩ := by decide
theorem test_wf_too_few_bytes : ¬ Command.HasItsBytes ⟨.app, .enqueue 2#24, [0x48#8]⟩ := by decide
theorem test_wf_bytes_unasked : ¬ Command.WellFormed ⟨.app, .getFlags, [0x48#8]⟩ := by decide
theorem test_wf_params : Params.WellFormed ⟨2, 8388608, false⟩ := by decide
theorem test_wf_txCap_small : ¬ Params.WellFormed ⟨1, 16, false⟩ := by decide
theorem test_wf_txCap_large : ¬ Params.WellFormed ⟨8388609, 16, false⟩ := by decide
theorem test_wf_rxCap_small : ¬ Params.WellFormed ⟨8, 1, false⟩ := by decide
theorem test_wf_rxCap_large : ¬ Params.WellFormed ⟨8, 8388609, false⟩ := by decide
theorem test_wf_memory_order : ¬ Memory.wf 8 [(3, 0#8), (1, 0#8)] := by decide
theorem test_wf_memory_range : ¬ Memory.wf 8 [(8, 0#8)] := by decide

/-! ## Decoding: words written out from the `match` column of R93 -/

theorem test_decode_init : decode .app 0b00000001000000000000000000111111#32 = .ok (.init 0x3F#6) := by decide
theorem test_decode_enqueue : decode .app 0b00000010000000000000000000001000#32 = .ok (.enqueue 8#24) := by decide
theorem test_decode_read : decode .app 0b00000011111111111111111111111111#32 = .ok (.read 0xFFFFFF#24) := by decide
theorem test_decode_flush : decode .app 0b00000100000000000000000001100100#32 = .ok (.flush 100#24) := by decide
theorem test_decode_getFlags : decode .app 0b00000101000000000000000000000000#32 = .ok .getFlags := by decide
theorem test_decode_cont : decode .app 0b00000110000000000000000000000000#32 = .ok .cont := by decide
theorem test_decode_abortTx : decode .app 0b00000111000000000000000000000000#32 = .ok .abortTx := by decide
theorem test_decode_teardown : decode .app 0b00001000000000000000000000000000#32 = .ok .teardown := by decide
theorem test_decode_txComplete : decode .irq 0b10000001000000000000000000000000#32 = .ok .txComplete := by decide
theorem test_decode_rxHalf : decode .irq 0b10000010000000000000000000000000#32 = .ok .rxHalf := by decide
theorem test_decode_rxComplete : decode .irq 0b10000011000000000000000000000000#32 = .ok .rxComplete := by decide
theorem test_decode_idleLine : decode .irq 0b10000100000000000000000000000000#32 = .ok .idleLine := by decide
theorem test_decode_opc_zero : decode .app 0x00000000#32 = .notSupported := by decide
theorem test_decode_opc_nine : decode .app 0x09000000#32 = .notSupported := by decide
theorem test_decode_irq_on_app : decode .app 0x81000000#32 = .notSupported := by decide
theorem test_decode_app_on_irq : decode .irq 0x02000001#32 = .notSupported := by decide
theorem test_decode_flush_on_irq : decode .irq 0x04000005#32 = .notSupported := by decide
theorem test_decode_opc_irq_five : decode .irq 0x85000000#32 = .notSupported := by decide
theorem test_decode_getFlags_arg : decode .app 0x05000001#32 = .invalidArgument := by decide
theorem test_decode_init_arg6 : decode .app 0x01000040#32 = .invalidArgument := by decide
theorem test_decode_txComplete_arg : decode .irq 0x81000001#32 = .invalidArgument := by decide
theorem test_table_word : decodeTableWord 32 0x04000005 = some (.flush 5#24) := by decide
theorem test_table_long_word : decodeTableWord 64 0x104000005 = none := by decide

/-! ## Vectors of spec/95_test_vectors.md, one step each -/

/-- 2.3 row 1 -/
theorem test_init_arms : ((got (exec (.init 0x3F#6) (cold 0#32))).map fun t => (t.inited, t.caps, t.env.rxBatch, t.calls)) =
    some (true, 0x3F#6, some ⟨0#24, 16#24, 16#24⟩, [⟨.startRx, 0#24, 16#24, 0#32⟩]) := by decide
/-- 2.3: `Busy` is checked before the mask -/
theorem test_init_busy : ((got (exec (.init 0#6) (live 0 0 false 0 []))).map fun t => (t.out, t.calls)) =
    some ([⟨.app, 0xFFFFFFFC#32, []⟩], []) := by decide

/-- 2.4 row 2, step E2: the copy wraps -/
theorem test_enqueue_copy_wraps :
    ((got (exec (.enqueue 3#24)
      { live 7 7 false 0 [] with appSeq := .enqueue .e2 ⟨3#24, [0x58#8, 0x59#8, 0x5A#8], 7#24, 3#24⟩ })).map (·.txBuf)) =
    some [(0, 0x59#8), (1, 0x5A#8), (7, 0x58#8)] := by decide
/-- 2.4 row 8, step E4: a failed start un-accepts the bytes -/
theorem test_enqueue_rolls_back :
    txView (exec (.enqueue 2#24)
      { live 2 4 false 0 [0xFFFFFFFC#32] with appSeq := .enqueue .e4 ⟨2#24, [0x48#8, 0x49#8], 2#24, 2#24⟩ }) =
    some ⟨[2, 2, 0, 0], some 0xFFFFFFFC#32, some ⟨.startTx, 2#24, 2#24, 0xFFFFFFFC#32⟩⟩ := by decide

/-- 2.7 row 6, step R1: a stale tail is refreshed -/
theorem test_read_refreshes : rxView (exec (.read 16#24) (liveRx 6 0 13 [])) =
    some ⟨[6, 3, 0, 16], none, some ⟨.rxRemaining, 0#24, 0#24, 13#32⟩⟩ := by decide
/-- R156, R71: step R3 across the end of the buffer -/
theorem test_read_copy_wraps :
    ((got (exec (.read 2#24) { liveRx 15 1 15 [] with
        rxBuf := [(0, 0x20#8), (15, 0x1F#8)], appSeq := .readR3 2#24 15#24 2#24 })).map (·.appSeq)) =
    some (.readR4 2#24 15#24 2#24 [0x1F#8, 0x20#8]) := by decide

/-- 2.8 row 5: the clock wrapped between F2 and F3 -/
theorem test_flush_times_out :
    ((got (exec (.flush 5#24) { live 0 2 true 2 [] with
        appSeq := .flushF3 5#24 0xFFFFFFFE#32
        env := { (live 0 2 true 2 []).env with now := 3#32 } })).map fun t => (t.out, t.appSeq)) =
    some ([⟨.app, 0xFFFFFFFE#32, []⟩], .idle) := by decide
/-- 2.8 row 2 -/
theorem test_flush_not_supported :
    ((got (exec (.flush 100#24) { live 0 2 true 2 [] with params := ⟨8, 16, false⟩ })).map fun t => (t.out, t.calls)) =
    some ([⟨.app, 0xFFFFFFFA#32, []⟩], []) := by decide

/-- 2.8: after a short ENQUEUE the flag reads 1 -/
theorem test_getFlags : ((got (exec .getFlags { live 0 7 true 7 [] with flags := 1#8 })).map (·.out)) =
    some [⟨.app, 1#32, []⟩] := by decide

/-- 2.5 row 2 -/
theorem test_cont_starts : txView (exec .cont (live 7 2 false 0 [0#32])) =
    some ⟨[7, 2, 1, 1], some 0#32, some ⟨.startTx, 7#24, 1#24, 0#32⟩⟩ := by decide
/-- 2.5 row 4: CONTINUE does not roll the tail back -/
theorem test_cont_fails : txView (exec .cont (live 0 3 false 0 [0xFFFFFFFF#32])) =
    some ⟨[0, 3, 0, 0], some 0xFFFFFFFF#32, some ⟨.startTx, 0#24, 3#24, 0xFFFFFFFF#32⟩⟩ := by decide

/-- 2.5, the last row: the reset is applied although the abort failed -/
theorem test_abortTx_fails : txView (exec .abortTx (live 0 7 true 7 [0xFFFFFFFF#32])) =
    some ⟨[0, 7, 0, 0], some 0xFFFFFFFF#32, some ⟨.abortTx, 0#24, 0#24, 0xFFFFFFFF#32⟩⟩ := by decide
/-- 2.5: called although Idle -/
theorem test_abortTx_idle : txView (exec .abortTx (live 4 4 false 0 [0#32])) =
    some ⟨[4, 4, 0, 0], some 0#32, some ⟨.abortTx, 0#24, 0#24, 0#32⟩⟩ := by decide

/-- 2.8, TEARDOWN row 4: the first error wins -/
theorem test_teardown_first_error :
    ((got (exec .teardown (live 0 7 true 7 [0xFFFFFFFF#32, 0xFFFFFFFC#32]))).map fun t => (t.inited, t.txRun, t.out, t.calls.length)) =
    some (false, false, [⟨.app, 0xFFFFFFFF#32, []⟩], 2) := by decide
/-- 2.8, TEARDOWN row 3 -/
theorem test_teardown_second_error :
    ((got (exec .teardown (live 0 7 true 7 [0#32, 0xFFFFFFFC#32]))).map fun t => (t.inited, t.txRun, t.out, t.calls.length)) =
    some (false, false, [⟨.app, 0xFFFFFFFC#32, []⟩], 2) := by decide

/-- 2.5: the wrapped remainder is chained -/
theorem test_txComplete_chains : txView (exec .txComplete { live 7 2 true 1 [0#32] with env := Env.reset }) =
    some ⟨[0, 2, 1, 2], some 0#32, some ⟨.startTx, 0#24, 2#24, 0#32⟩⟩ := by decide
/-- 2.5: spurious, no start although a backlog exists -/
theorem test_txComplete_spurious : txView (exec .txComplete (live 2 5 false 0 [])) =
    some ⟨[2, 5, 0, 0], some 0#32, none⟩ := by decide

/-- 2.6 row 4 -/
theorem test_rxHalf : rxView (exec .rxHalf (liveRx 0 6 8 [])) =
    some ⟨[0, 8, 0, 16], some 0#32, some ⟨.rxRemaining, 0#24, 0#24, 8#32⟩⟩ := by decide

/-- 2.6 row 6 -/
theorem test_rxComplete_rearms : rxView (exec .rxComplete (liveRx 6 8 0 [0#32])) =
    some ⟨[6, 0, 0, 16], some 0#32, some ⟨.startRx, 0#24, 16#24, 0#32⟩⟩ := by decide
/-- 2.6 row 9: progress only -/
theorem test_rxComplete_early : rxView (exec .rxComplete (liveRx 0 9 3 [])) =
    some ⟨[0, 13, 0, 16], some 0#32, some ⟨.rxRemaining, 0#24, 0#24, 3#32⟩⟩ := by decide

/-- 2.6 row 2 -/
theorem test_idleLine : rxView (exec .idleLine (liveRx 0 0 10 [])) =
    some ⟨[0, 6, 0, 16], some 0#32, some ⟨.rxRemaining, 0#24, 0#24, 10#32⟩⟩ := by decide
/-- 2.6, the last row but one: ENV's contract broken, no tail is computed -/
theorem test_idleLine_contract : exec .idleLine (liveRx 0 0 17 []) = .fault .rxRemainingOutOfRange := by rfl

/-- 2.2, the last rows: an event before INIT is answered and dropped -/
theorem test_fetch_idleLine : ((got (step ((State.resetWith vecParams).withFetchWord 32 0x84000000))).map (·.out)) =
    some [⟨.irq, 0xFFFFFFFB#32, []⟩] := by decide

/-! ## Witnesses: concrete states that meet the hypotheses of the statements -/

/-- The invariant of an initialised state, from facts that evaluation decides. -/
theorem inv_of {s : State} (b : Batch) (hseq : SeqOk s)
    (hm : s.params.WellFormed ∧ s.txBuf.wf s.params.txCap ∧ s.rxBuf.wf s.params.rxCap)
    (hr : (s.txHead.toNat < s.params.txCap ∧ s.txTail.toNat < s.params.txCap ∧ s.rxHead.toNat < s.params.rxCap) ∧
      s.rxTail.toNat < s.params.rxCap ∧ s.rxOrg = 0#24 ∧ s.rxSize.toNat = s.params.rxCap)
    (ht : (s.txRun = true → 1 ≤ s.txLen.toNat ∧ s.txLen.toNat ≤ txUsed s.params s.txHead s.txTail ∧
      s.txHead.toNat + s.txLen.toNat ≤ s.params.txCap) ∧ (s.txRun = false → s.txLen = 0#24))
    (hb : s.env.rxBatch = some b ∧ b.off = s.rxOrg ∧ b.len = s.rxSize ∧ b.rem.toNat ≤ b.len.toNat)
    (hc : s.inited = true ∧ suppliesMandatory s.params s.caps = true ∧ s.flags.toNat ≤ 1) : Inv s :=
  ⟨hm.1, hm.2.1, hm.2.2,
    fun _ => ⟨hr.1.1, hr.1.2.1, hr.1.2.2, hr.2.1, hr.2.2.1, hr.2.2.2, ht.1, ht.2, ⟨b, hb⟩, hc.2.1, hc.2.2⟩,
    fun _ => hc.1, hseq⟩

theorem inv_uninit {s : State} (hp : s.params.WellFormed) (hm : s.txBuf = [] ∧ s.rxBuf = []) (hi : s.inited = false)
    (hq : s.appSeq = .idle) : Inv s :=
  ⟨hp, by rw [hm.1]; exact ⟨List.Pairwise.nil, by simp⟩, by rw [hm.2]; exact ⟨List.Pairwise.nil, by simp⟩,
    (fun h => by rw [hi] at h; cases h), fun h => absurd hq h, by unfold SeqOk; rw [hq]; trivial⟩

/-- The calls of a step, read off its next state. -/
theorem new_of {s t : State} {new l : List CapCall} (h : NewCalls s t new) (e : t.calls = l ++ s.calls) : new = l :=
  List.append_cancel_right (h.symm.trans e)

/-- Idle with the backlog `TXBUF[2..4]`. -/
def backlog : State := live 2 5 false 0 [0#32]
/-- Running, full: `TXBUF[0..6]` in flight. -/
def full : State := live 0 7 true 7 [0#32]
/-- Six bytes received, none read, the tail stale. -/
def six : State := liveRx 0 0 10 [0#32]
/-- A completed batch, ten bytes unread. -/
def boundary : State := liveRx 6 8 0 [0#32]
/-- ENQUEUE "de" at E2, E3 and E4 behind a run of three bytes (P5a). -/
def deLocals : EnqueueLocals := ⟨2#24, [0x64#8, 0x65#8], 3#24, 2#24⟩
def atE2 : State := { live 0 3 true 3 [0#32] with appSeq := .enqueue .e2 deLocals }
def atE3 : State :=
  { live 0 3 true 3 [0#32] with appSeq := .enqueue .e3 deLocals, txBuf := [(3, 0x64#8), (4, 0x65#8)] }
def atE4 (run : Bool) (resp : Word) : State :=
  { live 0 5 run (if run then 3 else 0) [resp] with appSeq := .enqueue .e4 deLocals }
/-- READ 4 at R3 and R4. -/
def atR3 : State := { liveRx 0 6 10 [] with appSeq := .readR3 4#24 0#24 4#24 }
def atR4 : State := { liveRx 0 6 10 [] with
  rxBuf := [(0, 1#8), (1, 2#8), (2, 3#8), (3, 4#8)], appSeq := .readR4 4#24 0#24 4#24 [1#8, 2#8, 3#8, 4#8] }

theorem inv_backlog : Inv backlog := inv_of ⟨0#24, 16#24, 16#24⟩ trivial (by decide) (by decide) (by decide) (by decide) (by decide)
theorem inv_full : Inv full := inv_of ⟨0#24, 16#24, 16#24⟩ trivial (by decide) (by decide) (by decide) (by decide) (by decide)
theorem inv_six : Inv six := inv_of ⟨0#24, 16#24, 10#24⟩ trivial (by decide) (by decide) (by decide) (by decide) (by decide)
theorem inv_boundary : Inv boundary := inv_of ⟨0#24, 16#24, 0#24⟩ trivial (by decide) (by decide) (by decide) (by decide) (by decide)
theorem inv_atE2 : Inv atE2 :=
  inv_of ⟨0#24, 16#24, 16#24⟩ (by simp only [SeqOk, atE2]; decide) (by decide) (by decide) (by decide) (by decide) (by decide)
theorem inv_atE3 : Inv atE3 :=
  inv_of ⟨0#24, 16#24, 16#24⟩ (by simp only [SeqOk, atE3]; decide) (by decide) (by decide) (by decide) (by decide) (by decide)
theorem inv_atR3 : Inv atR3 :=
  inv_of ⟨0#24, 16#24, 10#24⟩ (by simp only [SeqOk, atR3]; decide) (by decide) (by decide) (by decide) (by decide) (by decide)
theorem inv_atR4 : Inv atR4 :=
  inv_of ⟨0#24, 16#24, 10#24⟩ (by simp only [SeqOk, atR4]; decide) (by decide) (by decide) (by decide) (by decide) (by decide)

theorem witness_DecodeOfEncodeIsTheInstruction : Port.irq ≠ (Instr.flush 5#24).port := by decide
theorem witness_DecodedWordIsItsEncoding : decode .irq 0x84000000#32 = .ok .idleLine := by decide

/-- R95's three clauses at the ends of their ranges. -/
abbrev Known (cw : Word) : Prop :=
  (1 ≤ cw.toNat / 2 ^ 24 ∧ cw.toNat / 2 ^ 24 ≤ 8) ∨ (0x81 ≤ cw.toNat / 2 ^ 24 ∧ cw.toNat / 2 ^ 24 ≤ 0x84)
abbrev OnIts (p : Port) (cw : Word) : Prop := p = .irq ↔ 0x80 ≤ cw.toNat / 2 ^ 24
abbrev ReservedSet (cw : Word) : Prop :=
  (cw.toNat / 2 ^ 24 = 1 ∧ 64 ≤ cw.toNat % 2 ^ 24) ∨
  ((5 ≤ cw.toNat / 2 ^ 24 ∧ cw.toNat / 2 ^ 24 ≤ 8) ∧ cw.toNat % 2 ^ 24 ≠ 0) ∨
  (0x81 ≤ cw.toNat / 2 ^ 24 ∧ cw.toNat % 2 ^ 24 ≠ 0)

theorem witness_DecodingIsTotalAndOrdered (cw : Word) (p : Port) :
    let s : State := { cold 0#32 with inputs := [Input.command p cw []] }
    s.inputs = Input.command p cw [] :: [] ∧ (p = .app → s.appSeq = .idle) := ⟨rfl, fun _ => rfl⟩
theorem witness_DecodingIsTotalAndOrdered_unknown :
    ¬ Known 0x00FFFFFF#32 ∧ ¬ Known 0x09000000#32 ∧ ¬ Known 0x80000000#32 ∧ ¬ Known 0x85000000#32 ∧ ¬ Known 0xFFFFFFFF#32 := by
  decide
theorem witness_DecodingIsTotalAndOrdered_port :
    ¬ OnIts .irq 0x08000000#32 ∧ ¬ OnIts .app 0x81000000#32 := by decide
theorem witness_DecodingIsTotalAndOrdered_reserved :
    (Known 0x01000040#32 ∧ OnIts .app 0x01000040#32 ∧ ReservedSet 0x01000040#32) ∧
    (Known 0x05000001#32 ∧ OnIts .app 0x05000001#32 ∧ ReservedSet 0x05000001#32) ∧
    (Known 0x84800000#32 ∧ OnIts .irq 0x84800000#32 ∧ ReservedSet 0x84800000#32) := by decide
theorem witness_DecodingIsTotalAndOrdered_own_rule :
    (Known 0x0100003F#32 ∧ OnIts .app 0x0100003F#32 ∧ ¬ ReservedSet 0x0100003F#32) ∧
    (Known 0x02FFFFFF#32 ∧ OnIts .app 0x02FFFFFF#32 ∧ ¬ ReservedSet 0x02FFFFFF#32) ∧
    (Known 0x81000000#32 ∧ OnIts .irq 0x81000000#32 ∧ ¬ ReservedSet 0x81000000#32) := by decide

theorem witness_StepRunsTheDecodedInstruction :
    let s : State := { backlog with inputs := [Input.command .app 0x06000000#32 []] }
    s.inputs = Input.command .app 0x06000000#32 [] :: [] ∧ s.appSeq = .idle ∧ decode .app 0x06000000#32 = .ok .cont := by decide
theorem witness_StepRunsTheDecodedInstruction_appStep :
    ({ atE2 with inputs := [.appStep] } : State).appSeq.current? = some (.enqueue 2#24) := rfl
theorem witness_StepRunsTheDecodedInstruction_take :
    let s : State := { six with inputs := [.take .idleLine], env := { six.env with pend := ⟨false, false, false, true⟩ } }
    s.inputs = .take .idleLine :: [] ∧ s.env.pend.get .idleLine = true := by decide
theorem witness_StepRunsTheDecodedInstruction_unscheduled :
    (atE2.inputs = [] ∧ atE2.appSeq.current? = some (.enqueue 2#24)) ∧ (backlog.inputs = [] ∧ backlog.appSeq = .idle) := by decide

theorem witness_MovesWithoutAStepStop_app :
    let s : State := { atE2 with inputs := [.app 0x06000000#32 []] }
    s.inputs = .app 0x06000000#32 [] :: [] ∧ s.appSeq ≠ .idle := by decide
theorem witness_MovesWithoutAStepStop_other :
    (Instr.read 4#24).port = .app ∧ atE2.appSeq ≠ .idle ∧ (∀ k, atE2.appSeq ≠ .readR2 k) ∧ (∀ k h n, atE2.appSeq ≠ .readR3 k h n) ∧
      ∀ k h n d, atE2.appSeq ≠ .readR4 k h n d :=
  ⟨rfl, by decide, fun _ h => (by cases h), fun _ _ _ h => (by cases h), fun _ _ _ _ h => (by cases h)⟩
theorem witness_MovesWithoutAStepStop_idle :
    let s : State := { backlog with inputs := [.appStep] }
    s.inputs = .appStep :: [] ∧ s.appSeq = .idle := by decide
theorem witness_MovesWithoutAStepStop_env :
    backlog.env.txRun = none ∧ (cold 0#32).env.rxBatch = none ∧ backlog.env.pend.get .txComplete = false := by decide
theorem witness_MovesWithoutAStepStop_src :
    backlog.appSeq = .idle ∧ backlog.inited = true ∧ backlog.appSrc.length ≠ (1#24).toNat := by decide

theorem witness_EveryOperationAnswers :
    (let s : State := { backlog with appSrc := [0x41#8] };
      Inv s ∧ s.appSeq = .idle ∧ s.appSrc.length = (1#24).toNat) ∧
    (Inv atE2 ∧ atE2.appSeq.current? = some (.enqueue 2#24)) ∧ (Inv atR3 ∧ atR3.appSeq.current? = some (.read 4#24)) :=
  ⟨⟨inv_of ⟨0#24, 16#24, 16#24⟩ trivial (by decide) (by decide) (by decide) (by decide) (by decide), rfl, rfl⟩,
    ⟨inv_atE2, rfl⟩, ⟨inv_atR3, rfl⟩⟩
theorem witness_OneResultPerCommand : (∃ t, exec (.read 4#24) atR4 = .next t) ∧ (∃ t, exec (.read 4#24) six = .next t) ∧
    ∃ t, exec .rxHalf six = .next t := ⟨⟨_, rfl⟩, ⟨_, rfl⟩, ⟨_, rfl⟩⟩

theorem witness_HardwareResetIsUninitialised : ({ full with inputs := [.reset] } : State).inputs = .reset :: [] := rfl
theorem witness_UninitialisedRefusesEveryCommand :
    (cold 0#32).inited = false ∧ (∀ m, Instr.idleLine ≠ .init m) ∧ (∀ m, Instr.cont ≠ .init m) ∧ (cold 0#32).appSeq = .idle :=
  ⟨rfl, fun _ h => (by cases h), fun _ h => (by cases h), rfl⟩
theorem witness_InitChecksArmsAndZeroes :
    (cold 0#32).appSeq = .idle ∧ (cold 0#32).inited = false ∧
      ((0x3F#6 &&& if (cold 0#32).params.timeout then 0x3F#6 else 0x1F#6) = if (cold 0#32).params.timeout then 0x3F#6 else 0x1F#6) ∧
      isErr (cold 0#32).choice.resp = false := by decide
theorem witness_InitChecksArmsAndZeroes_failures :
    backlog.inited = true ∧ ((cold 0#32).params.timeout = true ∧ 0x1F#6 &&& 0x3F#6 ≠ 0x3F#6) ∧
      isErr (cold 0xFFFFFFFF#32).choice.resp = true := by decide
theorem witness_StateBeforeInitIsUnobservable :
    SameBeforeInit (cold 0#32) { cold 0#32 with txTail := 5#24, flags := 0xFF#8, rxBuf := [(3, 1#8)] } ∧
      (∃ t, exec (.init 0x3F#6) (cold 0#32) = .next t ∧ t.inited = true) ∧
      ∃ t, exec (.init 0x01#6) (cold 0#32) = .next t ∧ t.inited = false :=
  ⟨⟨⟨rfl, rfl⟩, rfl, rfl, rfl, rfl, rfl, rfl, rfl⟩, ⟨_, rfl, rfl⟩, ⟨_, rfl, rfl⟩⟩
/-- The Uninitialised clause of the statements about one operation. -/
theorem witness_uninitialised_clauses :
    (cold 0#32).appSeq = .idle ∧ (cold 0#32).inited = false ∧ (cold 0#32).appSrc.length = (0#24).toNat := by decide
theorem witness_TeardownAlwaysUninitialises : full.appSeq = .idle ∧ full.inited = true := by decide
theorem witness_GetFlagsReadsFlags : full.appSeq = .idle ∧ full.inited = true ∧ Inv full := ⟨rfl, rfl, inv_full⟩

theorem witness_FlushPollsUntilEmptyOrTimeout_f1 :
    (six.appSeq = .idle ∧ six.inited = true ∧ six.txHead = six.txTail) ∧
    (full.appSeq = .idle ∧ full.txHead ≠ full.txTail ∧ full.params.timeout = true) ∧
    (({ full with params := ⟨8, 16, false⟩ } : State).params.timeout = false ∧ full.txHead ≠ full.txTail) := by decide
theorem witness_FlushPollsUntilEmptyOrTimeout_f2 : ({ full with appSeq := .flushF2 5#24 } : State).appSeq = .flushF2 5#24 := rfl
theorem witness_FlushPollsUntilEmptyOrTimeout_f3 :
    (({ six with appSeq := .flushF3 5#24 0#32 } : State).appSeq = .flushF3 5#24 0#32 ∧ six.txHead = six.txTail) ∧
    (full.txHead ≠ full.txTail ∧ (5#24).toNat ≤ ((5#32 : Timestamp) - 0#32).toNat ∧
      ((4#32 : Timestamp) - 0#32).toNat < (5#24).toNat) := by decide
theorem witness_ZeroTimeoutFlushReturns :
    let s : State := { full with inputs := [.app 0x04000000#32 [], .appStep, .appStep] }
    s.appSeq = .idle ∧ s.inited = true ∧ s.params.timeout = true ∧ s.txHead ≠ s.txTail ∧
      s.inputs = .app 0x04000000#32 [] :: ([] ++ .appStep :: ([] ++ .appStep :: [])) := by decide
/-- The run is completed and its completion taken between F1, F2 and F3: the ring is drained. -/
theorem witness_ZeroTimeoutFlushReturns_between :
    let s : State := { full with inputs := [.app 0x04000000#32 [], .env .txdone, .appStep, .take .txComplete, .appStep] }
    (∀ x ∈ [Input.env .txdone] ++ [.take .txComplete], x.BetweenAppSteps) ∧
      s.inputs = .app 0x04000000#32 [] :: ([.env .txdone] ++ .appStep :: ([.take .txComplete] ++ .appStep :: [])) ∧
      ∃ u, Sys2Proof.core.run ([Input.env .txdone].length + [Input.take .txComplete].length + 2) s = .next u ∧ u.txHead = u.txTail :=
  ⟨fun x h => (by
    simp only [List.mem_append, List.mem_singleton] at h
    rcases h with rfl | rfl <;> trivial), rfl, _, rfl, rfl⟩

theorem witness_EnqueueAdmitsWhatFits :
    (backlog.appSeq = .idle ∧ backlog.inited = true ∧ backlog.appSrc.length = (0#24).toNat ∧
      min (0#24).toNat (txFree backlog.params backlog.txHead backlog.txTail) = 0) ∧
    (let s : State := { full with appSrc := [0x58#8] };
      s.appSrc.length = (1#24).toNat ∧ min (1#24).toNat (txFree s.params s.txHead s.txTail) = 0) ∧
    (let s : State := { backlog with appSrc := [0x58#8] };
      s.appSrc.length = (1#24).toNat ∧ min (1#24).toNat (txFree s.params s.txHead s.txTail) ≠ 0) := by decide
theorem witness_EnqueueCopiesInThenPublishes :
    (Inv atE2 ∧ atE2.appSeq = .enqueue .e2 deLocals) ∧ atE3.appSeq = .enqueue .e3 deLocals := ⟨⟨inv_atE2, rfl⟩, rfl⟩
theorem witness_EnqueueKicksOrRollsBack :
    (atE4 true 0#32).appSeq = .enqueue .e4 deLocals ∧ isErr (continueAction (atE4 true 0#32)).1 = false ∧
      isErr (continueAction (atE4 false 0xFFFFFFFC#32)).1 = true := by decide

/-- An ENQUEUE "A" about to run with the engine as given. -/
def enqueueA (run : Bool) (resp : Word) : State :=
  { live 2 5 run (if run then 3 else 0) [resp] with
    inputs := [.app (encode (.enqueue 1#24)) [0x41#8], .appStep, .appStep, .appStep] }
theorem inv_enqueueA_running : Inv (enqueueA true 0#32) :=
  inv_of ⟨0#24, 16#24, 16#24⟩ trivial (by decide) (by decide) (by decide) (by decide) (by decide)
theorem inv_enqueueA_starts : Inv (enqueueA false 0#32) :=
  inv_of ⟨0#24, 16#24, 16#24⟩ trivial (by decide) (by decide) (by decide) (by decide) (by decide)
theorem inv_enqueueA_fails : Inv (enqueueA false 0xFFFFFFFC#32) :=
  inv_of ⟨0#24, 16#24, 16#24⟩ trivial (by decide) (by decide) (by decide) (by decide) (by decide)
theorem witness_UninterruptedEnqueue :
    (enqueueA true 0#32).appSeq = .idle ∧ (enqueueA true 0#32).inited = true ∧ [0x41#8].length = (1#24).toNat ∧
    (enqueueA true 0#32).inputs = .app (encode (.enqueue 1#24)) [0x41#8] :: .appStep :: .appStep :: .appStep :: [] ∧
    min (1#24).toNat (txFree (enqueueA true 0#32).params (enqueueA true 0#32).txHead (enqueueA true 0#32).txTail) ≠ 0 ∧
    (enqueueA true 0#32).txRun = true := by decide
theorem witness_UninterruptedEnqueue_idle :
    ((enqueueA false 0#32).txRun = false ∧ isErr (enqueueA false 0#32).choice.resp = false) ∧
    ((enqueueA false 0xFFFFFFFC#32).txRun = false ∧ isErr (enqueueA false 0xFFFFFFFC#32).choice.resp = true) := by decide

theorem witness_ContinueSubmitsTheLongestRun :
    (full.txRun = true ∧ six.txHead = six.txTail) ∧ (backlog.txRun = false ∧ backlog.txHead ≠ backlog.txTail) ∧
    backlog.appSeq = .idle ∧ backlog.inited = true := by decide
theorem witness_ContinueSubmitsTheLongestRun_outcomes :
    isErr (capStartTx 2#24 3#24 { backlog with txLen := 3#24, txRun := true }).1 = false ∧
    isErr (capStartTx 2#24 3#24 { live 2 5 true 3 [0xFFFFFFFF#32] with env := Env.reset }).1 = true := by decide
theorem witness_ContinueTwiceIsOnce : ∃ t, exec .cont backlog = .next t ∧ t.out = ⟨.app, 0#32, []⟩ :: backlog.out := ⟨_, rfl, rfl⟩
theorem witness_TxCompleteCreditsAndChains :
    (full.inited = true ∧ full.txRun = true) ∧ (backlog.inited = true ∧ backlog.txRun = false) := by decide
theorem witness_SpuriousCompletionIsIgnored : backlog.inited = true ∧ backlog.txRun = false := by decide
theorem witness_AbortTxKeepsTheQueue : full.appSeq = .idle ∧ full.inited = true := by decide
theorem witness_FailedStartCommitsNothing :
    ∃ t, exec .txComplete { live 0 5 true 3 [0xFFFFFFFC#32] with env := Env.reset } = .next t ∧
      t.calls = [⟨.startTx, 3#24, 2#24, 0xFFFFFFFC#32⟩] ∧ isErr 0xFFFFFFFC#32 = true := ⟨_, rfl, by decide, by decide⟩

theorem witness_RefreshDerivesTheTail : six.inited = true ∧ (capRxRemaining six).1.toNat ≤ six.rxSize.toNat := by decide
theorem witness_RefreshTwiceIsOnce : six.inited = true ∧ six.env.rxBatch ≠ none ∧ ∃ t, exec .rxHalf six = .next t :=
  ⟨rfl, by decide, _, rfl⟩
theorem witness_RemainingOutOfRangeStops :
    (liveRx 0 0 17 []).inited = true ∧ (liveRx 0 0 17 []).rxSize.toNat < (capRxRemaining (liveRx 0 0 17 [])).1.toNat ∧
      (liveRx 0 0 17 []).appSeq = .idle := by decide
theorem witness_RxCompleteRearmsAtTheBoundary :
    ((capRxRemaining six).1.toNat ≤ six.rxSize.toNat ∧ (capRxRemaining six).1 ≠ 0#32) ∧
    ((capRxRemaining boundary).1.toNat ≤ boundary.rxSize.toNat ∧ (capRxRemaining boundary).1 = 0#32) ∧
    (isErr (capStartRx 0#24 16#24 (capRxRemaining boundary).2).1 = false) ∧
    (capRxRemaining (liveRx 6 8 0 [0xFFFFFFFC#32])).1 = 0#32 ∧
    isErr (capStartRx 0#24 16#24 (capRxRemaining (liveRx 6 8 0 [0xFFFFFFFC#32])).2).1 = true := by decide
theorem witness_RearmOncePerBoundary :
    Inv boundary ∧ boundary.inited = true ∧ ∃ t, exec .rxComplete boundary = .next t ∧
      NewCalls boundary t [⟨.startRx, 0#24, 16#24, 0#32⟩, ⟨.rxRemaining, 0#24, 0#24, 0#32⟩] ∧
      t.calls.head? = some ⟨.startRx, 0#24, 16#24, 0#32⟩ ∧ isErr 0#32 = false :=
  ⟨inv_boundary, rfl, _, rfl, by unfold NewCalls; decide, by decide, by decide⟩
theorem witness_ReadRefreshesFirst :
    six.appSeq = .idle ∧ six.inited = true ∧ (capRxRemaining six).1.toNat ≤ six.rxSize.toNat := by decide
theorem witness_ReadCountsThenCopies :
    (let s : State := { liveRx 6 6 10 [] with appSeq := .readR2 4#24 };
      s.appSeq = .readR2 4#24 ∧ min (4#24).toNat (rxAvail s.params s.rxHead s.rxTail) = 0) ∧
    (let s : State := { liveRx 0 6 10 [] with appSeq := .readR2 4#24 };
      s.appSeq = .readR2 4#24 ∧ min (4#24).toNat (rxAvail s.params s.rxHead s.rxTail) ≠ 0) := by decide
theorem witness_ReadCountsThenCopies_copy : Inv atR3 ∧ atR3.appSeq = .readR3 4#24 0#24 4#24 := ⟨inv_atR3, rfl⟩
theorem witness_ReadReleasesThenAnswers :
    Inv atR4 ∧ atR4.appSeq = .readR4 4#24 0#24 4#24 [1#8, 2#8, 3#8, 4#8] := ⟨inv_atR4, rfl⟩
theorem witness_ReadCountIsBounded :
    Inv atR4 ∧ atR4.appSeq = .readR4 4#24 0#24 4#24 [1#8, 2#8, 3#8, 4#8] := ⟨inv_atR4, rfl⟩
theorem witness_UninterruptedRead :
    let s : State := { six with inputs := [.app (encode (.read 4#24)) [], .appStep, .appStep, .appStep] }
    Inv s ∧ s.appSeq = .idle ∧ s.inited = true ∧
      s.inputs = .app (encode (.read 4#24)) [] :: .appStep :: .appStep :: .appStep :: [] ∧
      min (4#24).toNat (unreadCount s) ≠ 0 :=
  ⟨inv_of ⟨0#24, 16#24, 10#24⟩ trivial (by decide) (by decide) (by decide) (by decide) (by decide), rfl, rfl, rfl, by decide⟩

theorem witness_ReceiveCapabilities :
    six.env.rxBatch = some ⟨0#24, 16#24, 10#24⟩ ∧ isErr six.choice.resp = false := by decide
/-- A failed `Cap.abortRx` (R213): ENV's transmit side is whatever ENV chose. -/
theorem witness_ReceiveCapabilities_failed :
    let s : State := { full with script := [{ resp := 0xFFFFFFFF#32, txRun := some ⟨1#24, 2#24⟩, txPend := true }] }
    isErr s.choice.resp = true ∧ (capAbortRx s).2.env.txRun = some ⟨1#24, 2#24⟩ ∧
      (capAbortRx s).2.env.pend.txComplete = true ∧ (capAbortRx s).2.env.rxBatch = none := by decide
theorem witness_TransmitCapabilities :
    backlog.env.txRun = none ∧ isErr (capAbortTx full).1 = false ∧ full.env.txRun = some ⟨0#24, 7#24⟩ ∧
      Event.idleLine ≠ .txComplete := by decide
theorem witness_EnvironmentActions :
    (({ cold 0#32 with inputs := [.env (.rx 1#8)] } : State).env.rxBatch = none ∧
      boundary.env.rxBatch = some ⟨0#24, 16#24, 0#24⟩) ∧
    (full.env.txRun = some ⟨0#24, 7#24⟩ ∧ (0#24).toNat + (7#24).toNat ≤ full.params.txCap) ∧ six.env.rxBatch ≠ none := by decide
theorem witness_ArrivalStoresOneByte :
    let s : State := { liveRx 0 0 1 [] with inputs := [.env (.rx 7#8)] }
    s.inputs = .env (.rx 7#8) :: [] ∧ s.env.rxBatch = some ⟨0#24, 16#24, 1#24⟩ ∧ 0 < (1#24).toNat ∧
      (0#24).toNat + ((16#24).toNat - (1#24).toNat) < s.params.rxCap ∧ s.rxBuf.wf s.params.rxCap := by decide
theorem witness_CapabilityErrorsPassThrough :
    ∃ t, exec .teardown (live 0 7 true 7 [0xFFFFFFFF#32, 0xFFFFFFFC#32]) = .next t ∧
      NewCalls (live 0 7 true 7 [0xFFFFFFFF#32, 0xFFFFFFFC#32]) t
        [⟨.abortRx, 0#24, 0#24, 0xFFFFFFFC#32⟩, ⟨.abortTx, 0#24, 0#24, 0xFFFFFFFF#32⟩] ∧
      (⟨.abortRx, 0#24, 0#24, 0xFFFFFFFC#32⟩ : CapCall).hasResult ∧ isErr 0xFFFFFFFC#32 = true :=
  ⟨_, rfl, by unfold NewCalls; decide, .inr (.inl rfl), by decide⟩
theorem witness_CapabilityErrorsPassThrough_other :
    ∃ t, exec .cont (live 0 3 false 0 [0xFFFFFFFF#32]) = .next t ∧
      NewCalls (live 0 3 false 0 [0xFFFFFFFF#32]) t [⟨.startTx, 0#24, 3#24, 0xFFFFFFFF#32⟩] ∧
      (⟨.startTx, 0#24, 3#24, 0xFFFFFFFF#32⟩ : CapCall).hasResult ∧ isErr 0xFFFFFFFF#32 = true :=
  ⟨_, rfl, by unfold NewCalls; decide, .inr (.inr (.inl rfl)), by decide⟩

theorem witness_SingleWriterTable_transmit :
    (∃ t, exec .txComplete full = .next t ∧ t.txHead ≠ full.txHead ∧ t.txRun ≠ full.txRun) ∧
    (∃ t, exec (.enqueue 2#24) atE3 = .next t ∧ t.txTail ≠ atE3.txTail) := ⟨⟨_, rfl, by decide⟩, ⟨_, rfl, by decide⟩⟩
theorem witness_SingleWriterTable_receive :
    (∃ t, exec (.read 4#24) atR4 = .next t ∧ t.rxHead ≠ atR4.rxHead) ∧ (∃ t, exec .idleLine six = .next t ∧ t.rxTail ≠ six.rxTail) ∧
    ∃ t, exec .rxComplete { boundary with rxSize := 8#24 } = .next t ∧ t.rxSize ≠ 8#24 :=
  ⟨⟨_, rfl, by decide⟩, ⟨_, rfl, by decide⟩, ⟨_, rfl, by decide⟩⟩
theorem witness_SingleWriterTable_device :
    (∃ t, exec .teardown (live 0 7 true 7 [0#32, 0#32]) = .next t ∧ t.inited ≠ true) ∧
    (∃ t, exec (.init 0x3F#6) (cold 0#32) = .next t ∧ t.caps ≠ (cold 0#32).caps) ∧
    ∃ t, exec (.read 8#24) { liveRx 6 6 10 [] with appSeq := .readR2 8#24 } = .next t ∧ t.flags ≠ 0#8 :=
  ⟨⟨_, rfl, by decide⟩, ⟨_, rfl, by decide⟩, ⟨_, rfl, by decide⟩⟩
theorem witness_BuffersHaveOneWriter : ∃ t, exec (.enqueue 2#24) atE2 = .next t ∧ t.txBuf ≠ atE2.txBuf := ⟨_, rfl, by decide⟩
theorem witness_IrqStepsLeaveAppAlone : Instr.txComplete.port = .irq ∧ ∃ t, exec .txComplete atE2 = .next t := ⟨rfl, _, rfl⟩
theorem witness_CommittedRunIsNotWritten :
    Inv atE2 ∧ atE2.inited = true ∧ atE2.txRun = true ∧ ∃ t, exec (.enqueue 2#24) atE2 = .next t := ⟨inv_atE2, rfl, rfl, _, rfl⟩
theorem witness_StartsAreInRange :
    (Inv backlog ∧ ∃ t, exec .cont backlog = .next t ∧ NewCalls backlog t [⟨.startTx, 2#24, 3#24, 0#32⟩]) ∧
    (Inv boundary ∧ ∃ t, exec .rxComplete boundary = .next t ∧
      NewCalls boundary t [⟨.startRx, 0#24, 16#24, 0#32⟩, ⟨.rxRemaining, 0#24, 0#24, 0#32⟩]) :=
  ⟨⟨inv_backlog, _, rfl, by unfold NewCalls; decide⟩, ⟨inv_boundary, _, rfl, by unfold NewCalls; decide⟩⟩

theorem coupled_backlog : TxCoupled backlog := ⟨fun h => absurd h (by decide), fun _ _ => by decide, fun _ h => absurd h (by decide)⟩
theorem coupled_full : TxCoupled full :=
  ⟨fun h => absurd h (by decide), fun _ h => absurd h (by decide), fun _ _ => .inl (by decide)⟩
/-- CONTINUE about to be presented on the backlog. -/
def kicking : State := { backlog with inputs := [.app 0x06000000#32 []] }
/-- The completion of a run that ends at the end of the buffer, about to be taken, with two wrapped bytes behind it. -/
def chaining : State :=
  { live 7 2 true 1 [0#32] with
    env := { Env.reset with rxBatch := some ⟨0#24, 16#24, 16#24⟩, pend := ⟨true, false, false, false⟩ }
    inputs := [.take .txComplete] }
theorem witness_NoStartWhileARunIsInFlight :
    TxCoupled kicking ∧ NoStrayIrq kicking ∧
      ∃ t, step kicking = .next t ∧ NewCalls kicking t [⟨.startTx, 2#24, 3#24, 0#32⟩] :=
  ⟨⟨fun h => absurd h (by decide), fun _ _ => by decide, fun _ h => absurd h (by decide)⟩, fun _ h => (by cases h), _, rfl,
    by unfold NewCalls; decide⟩
theorem witness_NoStartWhileARunIsInFlight_chains :
    TxCoupled chaining ∧ NoStrayIrq chaining ∧
      ∃ t, step chaining = .next t ∧ NewCalls chaining t [⟨.startTx, 0#24, 2#24, 0#32⟩] :=
  ⟨⟨fun h => absurd h (by decide), fun _ h => absurd h (by decide), fun _ _ => .inr (by decide)⟩, fun _ h => (by cases h), _, rfl,
    by unfold NewCalls; decide⟩

theorem witness_RingArithmetic : vecParams.WellFormed ∧ (7#24).toNat < vecParams.txCap ∧ (2#24).toNat < vecParams.txCap ∧
    (7#24 : Idx) ≠ 2#24 ∧ 7 < vecParams.txCap := by decide
theorem witness_ElapsedWraps : (7#32 : Timestamp).toNat ≤ (7#32 : Timestamp).toNat ∧
    (0x00000003#32 : Timestamp).toNat < (0xFFFFFFFE#32 : Timestamp).toNat := by decide
theorem witness_ResetMeetsTheInvariants : Params.WellFormed ⟨2, 8388608, true⟩ := by decide

/-- The completion of the run `full`, about to be taken. -/
def completing : State :=
  { live 0 7 true 7 [] with
    env := { Env.reset with rxBatch := some ⟨0#24, 16#24, 16#24⟩, pend := ⟨true, false, false, false⟩ }
    inputs := [.take .txComplete] }
theorem inv_completing : Inv completing :=
  inv_of ⟨0#24, 16#24, 16#24⟩ trivial (by decide) (by decide) (by decide) (by decide) (by decide)
theorem coupled_completing : TxCoupled completing :=
  ⟨fun h => absurd h (by decide), fun _ h => absurd h (by decide), fun _ _ => .inr (by decide)⟩
theorem witness_StepKeepsInv : Inv completing ∧ ∃ t, step completing = .next t := ⟨inv_completing, _, rfl⟩
theorem witness_StepKeepsTxCoupling :
    Inv completing ∧ TxCoupled completing ∧ NoStrayIrq completing ∧ ∃ t, step completing = .next t ∧ AbortsOk completing t :=
  ⟨inv_completing, coupled_completing, fun _ h => (by cases h), _, rfl, fun _ h c hc => (by cases new_of (l := []) h rfl; cases hc)⟩
/-- The firmware issues RX_COMPLETE again by itself: the premise holds of it. -/
theorem witness_StepKeepsTxCoupling_irq :
    let s : State := { completing with inputs := [.irq 0x83000000#32] }
    NoStrayIrq s ∧ ∃ t, step s = .next t ∧ AbortsOk s t :=
  ⟨fun _ h => (by cases h; decide), _, rfl, fun new h c hc => (by
    cases new_of (l := [⟨.rxRemaining, 0#24, 0#24, 16#32⟩]) h rfl
    cases List.mem_singleton.1 hc; decide)⟩
theorem witness_TransmittedStreamInOrder :
    Inv atE3 ∧ TxCoupled atE3 ∧ NoStrayIrq atE3 ∧ NoReset atE3 ∧ atE3.inited = true ∧
      ∃ t, step atE3 = .next t ∧ NoAborts atE3 t ∧ ∃ v, atE3.appSeq = .enqueue .e3 v :=
  ⟨inv_atE3, ⟨fun h => absurd h (by decide), fun _ h => absurd h (by decide), fun _ _ => .inl (by decide)⟩,
    fun _ h => (by cases h), fun h => (by cases h), rfl, _, rfl, fun _ h c hc => (by cases new_of (l := []) h rfl; cases hc), deLocals, rfl⟩
theorem witness_TransmittedStreamInOrder_completion :
    NoReset completing ∧ completing.inited = true ∧ ∃ t, step completing = .next t ∧ NoAborts completing t ∧ t.txTail = completing.txTail :=
  ⟨fun h => (by cases h), rfl, _, rfl, fun _ h c hc => (by cases new_of (l := []) h rfl; cases hc), rfl⟩
/-- INIT about to be presented. -/
def initialising : State := { cold 0#32 with inputs := [.app 0x0100003F#32 []] }
theorem witness_streams_init :
    Inv initialising ∧ initialising.inited = false ∧ ∃ t, step initialising = .next t ∧ t.inited = true :=
  ⟨inv_uninit (by decide) ⟨rfl, rfl⟩ rfl rfl, rfl, _, rfl, rfl⟩

theorem exact_atR4 : RxExact atR4 :=
  ⟨fun _ => by decide, fun _ _ _ h => (by cases h), fun _ _ _ _ h => (by cases h; decide)⟩
theorem witness_ReceivedStreamInOrder :
    Inv atR4 ∧ RxExact atR4 ∧ NoReset atR4 ∧ atR4.inited = true ∧
      ∃ t, step atR4 = .next t ∧ t.inited = true ∧ ArrivalHasRoom atR4 t :=
  ⟨inv_atR4, exact_atR4, fun h => (by cases h), rfl, _, rfl, rfl, fun _ h => absurd h (by decide)⟩
theorem witness_ReceivedStreamInOrder_arrival :
    let s : State := { six with inputs := [.env (.rx 7#8)] }
    NoReset s ∧ s.inited = true ∧ ∃ t, step s = .next t ∧ t.inited = true ∧ ArrivalHasRoom s t :=
  ⟨fun h => (by cases h), rfl, _, rfl, rfl, fun _ _ => by decide⟩
/-- The exactness also over INIT and the hardware reset. -/
theorem witness_ReceivedStreamInOrder_init :
    RxExact initialising ∧ ∃ t, step initialising = .next t ∧ ArrivalHasRoom initialising t :=
  ⟨⟨fun h => absurd h (by decide), fun _ _ _ h => (by cases h), fun _ _ _ _ h => (by cases h)⟩, _, rfl, fun h => absurd h (by decide)⟩
theorem witness_ReceivedStreamInOrder_reset :
    let s : State := { atR4 with inputs := [.reset] }
    Inv s ∧ RxExact s ∧ ∃ t, step s = .next t ∧ ArrivalHasRoom s t :=
  ⟨inv_of ⟨0#24, 16#24, 10#24⟩ (by simp only [SeqOk, atR4]; decide) (by decide) (by decide) (by decide) (by decide) (by decide),
    ⟨fun _ => by decide, fun _ _ _ h => (by cases h), fun _ _ _ _ h => (by cases h; decide)⟩, _, rfl, fun _ h => absurd h (by decide)⟩
theorem witness_TailFollowsTheFront :
    Inv six ∧ (∃ t, exec .idleLine six = .next t ∧ t.inited = true) ∧ NoReset six ∧ six.inited = true ∧
      ∃ t, step six = .next t ∧ t.inited = true :=
  ⟨inv_six, ⟨_, rfl, rfl⟩, fun h => (by cases h), rfl, _, rfl, rfl⟩

end Sys2Proof.Tests
end

/-! The obligations about spec/00_scope.md: the ring arithmetic over the Tx indices (R9, R10) and elapsed time (R12). -/

namespace Sys2Proof.Machine

theorem txUsed_lt {p : Params} {h t : Idx} (hh : h.toNat < p.txCap) (ht : t.toNat < p.txCap) : txUsed p h t < p.txCap :=
  ringDist_lt hh ht

/-- One slot always stays free, so the bytes queued and the bytes that still fit make up the rest. -/
theorem txUsed_add_txFree {p : Params} {h t : Idx} (hh : h.toNat < p.txCap) (ht : t.toNat < p.txCap) :
    txUsed p h t + txFree p h t = p.txCap - 1 :=
  Nat.add_sub_of_le (Nat.le_sub_one_of_lt (txUsed_lt hh ht))

theorem txUsed_eq_zero {p : Params} {h t : Idx} (hh : h.toNat < p.txCap) : txUsed p h t = 0 ↔ h = t :=
  (ringDist_eq_zero hh).trans BitVec.toNat_inj

theorem runLen_self (p : Params) (h : Idx) : runLen p h h = 0 := by simp [runLen]

/-- An unwrapped queue is one run, up to the tail; a wrapped one has its first run up to the physical end of the buffer. -/
theorem runLen_cases (p : Params) {h t : Idx} (hne : h ≠ t) :
    (h.toNat < t.toNat ∧ runLen p h t = t.toNat - h.toNat ∧ txUsed p h t = t.toNat - h.toNat) ∨
    (t.toNat < h.toNat ∧ runLen p h t = p.txCap - h.toNat ∧ txUsed p h t = p.txCap - h.toNat + t.toNat) := by
  rcases Nat.lt_or_gt_of_ne (mt BitVec.eq_of_toNat_eq hne) with hlt | hgt
  · exact .inl ⟨hlt, if_pos hlt, if_pos (Nat.le_of_lt hlt)⟩
  · exact .inr ⟨hgt, by rw [runLen, if_neg (Nat.lt_asymm hgt), if_pos hgt], if_neg (Nat.not_le_of_lt hgt)⟩

/-- The run from the head of a queue that holds something is non-empty, consists of queued bytes and does not wrap. -/
theorem runLen_bounds {p : Params} {h t : Idx} (hh : h.toNat < p.txCap) (ht : t.toNat < p.txCap) (hne : h ≠ t) :
    1 ≤ runLen p h t ∧ runLen p h t ≤ txUsed p h t ∧ h.toNat + runLen p h t ≤ p.txCap := by
  rcases runLen_cases p hne with ⟨hlt, hrun, hused⟩ | ⟨hgt, hrun, hused⟩ <;> rw [hrun, hused] <;> omega

/-- Where the subtraction of timestamps does not borrow, elapsed time is the plain difference. -/
theorem elapsed_of_le {t0 now : Timestamp} (h : t0.toNat ≤ now.toNat) : elapsed t0 now = now.toNat - t0.toNat := if_pos h

theorem elapsed_of_lt {t0 now : Timestamp} (h : now.toNat < t0.toNat) : elapsed t0 now = 2 ^ 32 - t0.toNat + now.toNat :=
  if_neg (Nat.not_le_of_lt h)

theorem elapsed_eq_mod (t0 now : Timestamp) : elapsed t0 now = (2 ^ 32 + now.toNat - t0.toNat) % 2 ^ 32 := by
  rw [elapsed_eq, BitVec.toNat_sub, Nat.sub_add_comm (Nat.le_of_lt t0.isLt)]

end Sys2Proof.Machine

namespace Sys2Proof.Proofs

open Sys2Proof.Machine

/-- Settles O48, from the laws of `add` and `dist` below the capacity and the two shapes of a run. -/
theorem ringArithmetic : Obligations.RingArithmetic := by
  intro p h t k _ hh ht
  refine ⟨ringAdd_lt (Nat.zero_lt_of_lt hh), ringDist_lt hh ht, ringAdd_ringDist hh ht, ringDist_ringAdd hh, txUsed_add_txFree hh ht,
    (txUsed_eq_zero hh).symm, runLen_bounds hh ht, ?_⟩
  rintro rfl
  exact runLen_self p h

/-- Settles O49: each branch of `elapsed`, and the subtraction of 32-bit words that both branches amount to. -/
theorem elapsedWraps : Obligations.ElapsedWraps := fun t0 now =>
  ⟨elapsed_of_le, elapsed_of_lt, elapsed_eq_mod t0 now, elapsed_eq t0 now⟩

end Sys2Proof.Proofs

/-! The obligations about spec/10_state.md. First what an operation, an ENV action and a step can do to the
state, each said once. -/

namespace Sys2Proof.Machine

/-- What the operation `i` leaves when it answers, in the terms of the actions it is made of. Of the guards it keeps those that the
invariants need; the whole of them is in the `_next` lemma of each operation. -/
inductive Effect (s : State) : Instr → State → Prop
  /-- a result and nothing else: a refusal, GETFLAGS, a FLUSH that ends before it reads the clock -/
  | answeredApp {i : Instr} (v : Word) (hp : i.port = .app) : Effect s i (s.answerApp v [])
  | answeredIrq {i : Instr} (v : Word) (hp : i.port = .irq) : Effect s i (s.answerIrq v)
  | initFailed (m : BitVec 6) (hu : s.inited = false) (he : isErr s.choice.resp = true) :
      Effect s (.init m) ((capStartRx 0#24 (idxOf s.params.rxCap) s).2.answerApp s.choice.resp [])
  | initialised (m : BitVec 6) (hu : s.inited = false) (hm : suppliesMandatory s.params m = true)
      (he : isErr s.choice.resp = false) :
      Effect s (.init m) (((capStartRx 0#24 (idxOf s.params.rxCap) s).2.zeroed m).answerApp (codeWord .ok) [])
  | continued (hi : s.inited = true) : Effect s .cont ((continueAction s).2.answerApp (continueAction s).1 [])
  | aborted (hi : s.inited = true) (v : Word) : Effect s .abortTx ((capAbortTx s.leaveRunning).2.answerApp v [])
  | tornDown (hi : s.inited = true) (v : Word) :
      Effect s .teardown ({ (capAbortRx (capAbortTx s.leaveRunning).2).2 with inited := false }.answerApp v [])
  | credited (hi : s.inited = true) (hr : s.txRun = true) :
      Effect s .txComplete ((continueAction s.creditRun).2.answerIrq (continueAction s.creditRun).1)
  | refreshed {i : Instr} (h : i = .idleLine ∨ i = .rxHalf ∨ i = .rxComplete) (hi : s.inited = true) :
      Effect s i (((capRxRemaining s).2.refreshTail (capRxRemaining s).1).answerIrq (codeWord .ok))
  | rearmed (hi : s.inited = true) (h0 : (capRxRemaining s).1 = 0#32) :
      Effect s .rxComplete ((rearm ((capRxRemaining s).2.refreshTail (capRxRemaining s).1)).2.answerIrq
        (rearm ((capRxRemaining s).2.refreshTail (capRxRemaining s).1)).1)
  /-- ENQUEUE's E1 and READ's R2 with nothing to copy -/
  | nothingToCopy {i : Instr} (h : (∃ len, i = .enqueue len) ∨ ∃ m, i = .read m) (b : Bool) :
      Effect s i ({ s with flags := setShort b s.flags }.answerApp (codeWord .ok) [])
  | admitted (len : Idx) (hi : s.inited = true) (hl : s.appSrc.length = len.toNat)
      (hn : min len.toNat (txFree s.params s.txHead s.txTail) ≠ 0) :
      Effect s (.enqueue len) (s.standAt
        (.enqueue .e2 ⟨len, s.appSrc, s.txTail, idxOf (min len.toNat (txFree s.params s.txHead s.txTail))⟩))
  | copiedIn (len : Idx) (v : EnqueueLocals) (hq : s.appSeq = .enqueue .e2 v)
      (hr : ringInRange v.t.toNat (v.src.take v.n.toNat).length s.params.txCap = true) :
      Effect s (.enqueue len) ({ s with
        txBuf := ringWrite s.txBuf v.t.toNat s.params.txCap (v.src.take v.n.toNat) }.standAt (.enqueue .e3 v))
  | published (len : Idx) (v : EnqueueLocals) (hq : s.appSeq = .enqueue .e3 v) :
      Effect s (.enqueue len) ({ s with
        txTail := idxOf (ringAdd v.t.toNat v.n.toNat s.params.txCap) }.standAt (.enqueue .e4 v))
  | kicked (len : Idx) (v : EnqueueLocals) (hq : s.appSeq = .enqueue .e4 v) (b : Bool) :
      Effect s (.enqueue len) ({ (continueAction s).2 with flags := setShort b s.flags }.answerApp (countWord v.n) [])
  | rolledBack (len : Idx) (v : EnqueueLocals) (hq : s.appSeq = .enqueue .e4 v) (he : isErr (continueAction s).1 = true) :
      Effect s (.enqueue len) ({ (continueAction s).2 with
        txTail := rolledBackTail s.params s.txHead v.t s.txTail }.answerApp (continueAction s).1 [])
  | readRefreshed (m : Idx) (hq : s.appSeq = .idle) (hi : s.inited = true) :
      Effect s (.read m) (((capRxRemaining s).2.refreshTail (capRxRemaining s).1).standAt (.readR2 m))
  | counted (m m' : Idx) (hq : s.appSeq = .readR2 m') (hn : min m'.toNat (rxAvail s.params s.rxHead s.rxTail) ≠ 0) :
      Effect s (.read m) (s.standAt (.readR3 m' s.rxHead (idxOf (min m'.toNat (rxAvail s.params s.rxHead s.rxTail)))))
  | copiedOut (m m' h n : Idx) (hq : s.appSeq = .readR3 m' h n) :
      Effect s (.read m) (s.standAt (.readR4 m' h n (ringRead .rxBuf s.rxBuf h.toNat n.toNat s.params.rxCap)))
  | released (m m' h n : Idx) (dst : List Byte) (hq : s.appSeq = .readR4 m' h n dst) (b : Bool) :
      Effect s (.read m) ({ s with
        rxHead := idxOf (ringAdd h.toNat n.toNat s.params.rxCap)
        flags := setShort b s.flags }.answerApp (countWord n) dst)
  | flushBegun (m : Idx) (hi : s.inited = true) (ht : s.params.timeout = true) : Effect s (.flush m) (s.standAt (.flushF2 m))
  | clockRead (m m' : Idx) (t0 : Timestamp) (hq : s.appSeq = .flushF2 m' ∨ ∃ t1, s.appSeq = .flushF3 m' t1) :
      Effect s (.flush m) ((capNowMillis s).2.standAt (.flushF3 m' t0))
  | timedOut (m : Idx) : Effect s (.flush m) ((capNowMillis s).2.answerApp (codeWord .timeout) [])

variable {s t : State}

theorem execEnqueue_effect {len : Idx} (h : execEnqueue len s = .next t) : Effect s (.enqueue len) t := by
  rcases execEnqueue_next h with ⟨-, -, rfl⟩ | ⟨-, -, -, -, rfl⟩ | ⟨-, hi, hl, hn, rfl⟩ | ⟨v, hq, hr, rfl⟩ | ⟨v, hq, rfl⟩ |
    ⟨v, hq, rfl⟩
  · exact .answeredApp _ rfl
  · exact .nothingToCopy (.inl ⟨_, rfl⟩) _
  · exact .admitted _ hi hl hn
  · exact .copiedIn _ v hq hr
  · exact .published _ v hq
  · rcases enqueueE4_cases v s with ⟨-, e⟩ | ⟨he, e⟩ <;> rw [e]
    · exact .kicked _ v hq _
    · exact .rolledBack _ v hq he

theorem execRead_effect {m : Idx} (h : execRead m s = .next t) : Effect s (.read m) t := by
  rcases execRead_next h with ⟨-, -, rfl⟩ | ⟨hq, hi, -, rfl⟩ | ⟨m', hq, rfl⟩ | ⟨m', hd, n, hq, -, rfl⟩ |
    ⟨m', hd, n, dst, hq, rfl⟩
  · exact .answeredApp _ rfl
  · exact .readRefreshed m hq hi
  · rcases readR2_cases m' s with ⟨-, e⟩ | ⟨hn, e⟩ <;> rw [e]
    · exact .nothingToCopy (.inr ⟨_, rfl⟩) _
    · exact .counted m m' hq hn
  · exact .copiedOut m m' hd n hq
  · exact .released m m' hd n dst hq _

theorem execFlush_effect {m : Idx} (h : execFlush m s = .next t) : Effect s (.flush m) t := by
  rcases execFlush_next h with ⟨-, -, rfl⟩ | ⟨-, hi, rfl⟩ | ⟨m', hq, rfl⟩ | ⟨m', t0, hq, rfl⟩
  · exact .answeredApp _ rfl
  · rcases flushF1_cases m s with ⟨-, e⟩ | ⟨-, -, e⟩ | ⟨-, ht, e⟩ <;> rw [e]
    · exact .answeredApp _ rfl
    · exact .answeredApp _ rfl
    · exact .flushBegun m hi ht
  · exact .clockRead m m' _ (.inl hq)
  · rcases flushF3_cases m' t0 s with ⟨-, e⟩ | ⟨-, -, e⟩ | ⟨-, -, e⟩ <;> rw [e]
    · exact .answeredApp _ rfl
    · exact .timedOut m
    · exact .clockRead m m' _ (.inr ⟨t0, hq⟩)

/-- Everything an operation can do when it answers a next state. -/
theorem exec_effect {i : Instr} (h : exec i s = .next t) : Effect s i t := by
  cases i with
  | init m =>
    obtain ⟨-, ⟨-, rfl⟩ | ⟨-, -, rfl⟩ | ⟨hu, -, he, rfl⟩ | ⟨hu, hm, he, rfl⟩⟩ := execInit_next h
    · exact .answeredApp _ rfl
    · exact .answeredApp _ rfl
    · exact .initFailed m hu he
    · exact .initialised m hu hm he
  | enqueue len => exact execEnqueue_effect h
  | read m => exact execRead_effect h
  | flush m => exact execFlush_effect h
  | getFlags =>
    obtain ⟨-, ⟨-, rfl⟩ | ⟨-, rfl⟩⟩ := execGetFlags_next h
    · exact .answeredApp _ rfl
    · exact .answeredApp _ rfl
  | cont =>
    obtain ⟨-, ⟨-, rfl⟩ | ⟨hi, rfl⟩⟩ := execCont_next h
    · exact .answeredApp _ rfl
    · exact .continued hi
  | abortTx =>
    obtain ⟨-, ⟨-, rfl⟩ | ⟨hi, rfl⟩⟩ := execAbortTx_next h
    · exact .answeredApp _ rfl
    · exact .aborted hi _
  | teardown =>
    obtain ⟨-, ⟨-, rfl⟩ | ⟨hi, rfl⟩⟩ := execTeardown_next h
    · exact .answeredApp _ rfl
    · exact .tornDown hi _
  | txComplete =>
    obtain ⟨-, rfl⟩ | ⟨-, -, rfl⟩ | ⟨hi, hr, rfl⟩ := execTxComplete_next h
    · exact .answeredIrq _ rfl
    · exact .answeredIrq _ rfl
    · exact .credited hi hr
  | idleLine =>
    obtain ⟨-, rfl⟩ | ⟨hi, -, rfl⟩ := execIdleLine_next h
    · exact .answeredIrq _ rfl
    · exact .refreshed (.inl rfl) hi
  | rxHalf =>
    obtain ⟨-, rfl⟩ | ⟨hi, -, rfl⟩ := execRxHalf_next h
    · exact .answeredIrq _ rfl
    · exact .refreshed (.inr (.inl rfl)) hi
  | rxComplete =>
    obtain ⟨-, rfl⟩ | ⟨hi, -, ⟨-, rfl⟩ | ⟨h0, rfl⟩⟩ := execRxComplete_next h
    · exact .answeredIrq _ rfl
    · exact .refreshed (.inr (.inr rfl)) hi
    · have e := Effect.rearmed hi h0
      rwa [h0] at e

/-- What ENV can do on its own (spec/43_capability_calls.md R219). -/
inductive EnvEffect (s : State) : State → Prop
  | dropped : EnvEffect s s
  | arrived (x : Batch) (b : Byte) (hx : s.env.rxBatch = some x) (h0 : x.rem ≠ 0#24)
      (hslot : x.off.toNat + (x.len.toNat - x.rem.toNat) < s.params.rxCap) : EnvEffect s (storeArrival x b s)
  | completed (r : Run) (hr : s.env.txRun = some r) : EnvEffect s (completeRun r s)
  | raised (e : Event) (he : e ≠ .txComplete) :
      EnvEffect s { s with env := { s.env with pend := s.env.pend.put true e } }
  | ticked (k : Nat) : EnvEffect s (envTick k s)

theorem envAct_effect {a : EnvAction} (h : envAct a s = .next t) : EnvEffect s t := by
  cases a with
  | rx b =>
    obtain ⟨-, rfl⟩ | ⟨x, hx, h0, hslot, rfl⟩ := envRx_next h
    · exact .dropped
    · exact .arrived x b hx h0 hslot
  | txdone =>
    obtain ⟨r, hr, -, rfl⟩ := envTxDone_next h
    exact .completed r hr
  | idle => cases h; exact .raised .idleLine (by decide)
  | half =>
    obtain ⟨-, rfl⟩ := envHalf_next h
    exact .raised .rxHalf (by decide)
  | tick k => cases h; exact .ticked k

/-- `s` once its next move is off the schedule, with the bytes beside a presented word in place (spec/30_encoding.md R97). -/
def State.scheduled (rest : List Input) (src : List Byte) (s : State) : State := { s with inputs := rest, appSrc := src }

/-- What a step can do (spec/60_exceptions.md R250 to R254). Every operation that a step runs is presented, in progress or taken as
an event; a TX_COMPLETE that is not taken as an event is one that the firmware issues by itself. -/
inductive StepEffect (s : State) : State → Prop
  | waits : StepEffect s s
  | runs {i : Instr} {t : State} (rest : List Input) (src : List Byte) (h : exec i (s.scheduled rest src) = .next t)
      (hi : i = .txComplete → ∃ cw, s.inputs.head? = some (.irq cw) ∧ decode .irq cw = .ok .txComplete) : StepEffect s t
  | rejects (rest : List Input) (src : List Byte) (p : Port) (v : Word) : StepEffect s ((s.scheduled rest src).answer p v)
  | takes {t : State} (rest : List Input) (e : Event) (he : s.env.pend.get e = true)
      (h : exec e.instr ((s.scheduled rest s.appSrc).clearPend e) = .next t) : StepEffect s t
  | env {t : State} (rest : List Input) (h : EnvEffect (s.scheduled rest s.appSrc) t) : StepEffect s t
  | resets (rest : List Input) (hr : s.inputs.head? = some .reset) : StepEffect s (hardwareReset (s.scheduled rest s.appSrc))

/-- No operation in progress is an IRQ operation (spec/10_state.md R36). -/
theorem current?_port {q : AppSeq} {i : Instr} (h : q.current? = some i) : i.port = .app := by
  cases q <;> cases h <;> rfl

/-- The row that an `OPC` selects stands on the port of its top bit (spec/30_encoding.md R91, R93). -/
theorem rowOf_port {opc : BitVec 8} {arg reserved : Idx} {i : Instr} (h : rowOf opc arg = some (reserved, i)) :
    i.port = if 0x80 ≤ opc.toNat then .irq else .app := by
  unfold rowOf at h
  split at h <;> cases h <;> simp [Instr.port, *]

theorem decode_port {p : Port} {cw : Word} {i : Instr} (h : decode p cw = .ok i) : i.port = p := by
  unfold decode at h
  split at h
  · cases h
  · rename_i hrow
    split at h
    · cases h
    · rename_i hp
      split at h
      · cases h
      · cases h
        rw [rowOf_port hrow, ← portOf_eq]
        exact not_not.1 hp

theorem runWord_step {p : Port} {cw : Word} {rest : List Input} {src : List Byte}
    (hw : p = .irq → s.inputs.head? = some (.irq cw)) (h : runWord p cw (s.scheduled rest src) = .next t) : StepEffect s t := by
  obtain ⟨i, hd, he⟩ | ⟨c, -, rfl⟩ := runWord_next h
  · refine .runs rest src he fun hi => ?_
    subst hi
    cases decode_port hd
    exact ⟨cw, hw rfl, hd⟩
  · exact .rejects rest src p _

/-- Everything a step can do when it answers a next state. -/
theorem step_effect (h : step s = .next t) : StepEffect s t := by
  have own {i : Instr} {q : AppSeq} (hc : q.current? = some i) : i ≠ .txComplete := fun e => by
    have := current?_port hc; rw [e] at this; cases this
  obtain ⟨-, -, rfl⟩ | ⟨-, i, hc, he⟩ | ⟨inp, rest, hin, h⟩ := step_next h
  · exact .waits
  · exact .runs s.inputs s.appSrc he fun e => absurd e (own hc)
  · obtain ⟨cw, src, -, -, h⟩ | ⟨i, -, hc, h⟩ | ⟨cw, rfl, h⟩ | ⟨e, -, he, h⟩ | ⟨b, -, h⟩ | ⟨-, h⟩ | ⟨-, rfl⟩ |
      ⟨-, h⟩ | ⟨k, -, rfl⟩ | ⟨rfl, rfl⟩ := runInput_next h
    · exact runWord_step (p := .app) (rest := rest) (src := src) (by simp) h
    · exact .runs rest s.appSrc h fun e => absurd e (own hc)
    · exact runWord_step (rest := rest) (src := s.appSrc) (fun _ => by rw [hin]; rfl) h
    · exact .takes rest e he h
    · exact .env rest (envAct_effect (a := .rx b) h)
    · exact .env rest (envAct_effect (a := .txdone) h)
    · exact .env rest (envAct_effect (a := .idle) rfl)
    · exact .env rest (envAct_effect (a := .half) h)
    · exact .env rest (envAct_effect (a := .tick k) rfl)
    · exact .resets rest (by rw [hin]; rfl)

end Sys2Proof.Machine

/-! The invariant: what it says apart from APP's place, kept by every shared action, then by every operation and step. -/

namespace Sys2Proof.Machine

/-- The transmit registers of an Initialised block (spec/10_state.md R39, R40 (b), (c)). -/
structure TxOk (p : Params) (head tail : Idx) (run : Bool) (len : Idx) : Prop where
  head_lt : head.toNat < p.txCap
  tail_lt : tail.toNat < p.txCap
  running : run = true → 1 ≤ len.toNat ∧ len.toNat ≤ txUsed p head tail ∧ head.toNat + len.toNat ≤ p.txCap
  idle : run = false → len = 0#24

/-- The receive registers of an Initialised block and the armed batch (spec/10_state.md R39, R30, spec/41_rx_engine.md R151). -/
structure RxOk (p : Params) (head tail org size : Idx) (batch : Option Batch) : Prop where
  head_lt : head.toNat < p.rxCap
  tail_lt : tail.toNat < p.rxCap
  org_zero : org = 0#24
  size_cap : size.toNat = p.rxCap
  batch : ∃ b, batch = some b ∧ b.off = org ∧ b.len = size ∧ b.rem.toNat ≤ b.len.toNat

/-- The invariant but for what it says of `APPSEQ`, in parts that the actions keep one by one. -/
structure Sound (s : State) : Prop where
  params : s.params.WellFormed
  txBuf : s.txBuf.wf s.params.txCap
  rxBuf : s.rxBuf.wf s.params.rxCap
  tx : s.inited = true → TxOk s.params s.txHead s.txTail s.txRun s.txLen
  rx : s.inited = true → RxOk s.params s.rxHead s.rxTail s.rxOrg s.rxSize s.env.rxBatch
  caps : s.inited = true → suppliesMandatory s.params s.caps = true
  flags : s.inited = true → s.flags.toNat ≤ 1

variable {s t : State}

theorem inv_iff : Inv s ↔ Sound s ∧ (s.appSeq ≠ .idle → s.inited = true) ∧ SeqOk s := by
  constructor
  · intro h
    refine ⟨⟨h.params, h.txBuf, h.rxBuf, fun hi => ?_, fun hi => ?_, fun hi => (h.live hi).caps, fun hi => (h.live hi).flags⟩,
      h.seqInited, h.seq⟩
    · have l := h.live hi
      exact ⟨l.txHead_lt, l.txTail_lt, l.running, l.idle⟩
    · have l := h.live hi
      exact ⟨l.rxHead_lt, l.rxTail_lt, l.rxOrg_zero, l.rxSize_cap, l.batch⟩
  · rintro ⟨h, hq, hseq⟩
    refine ⟨h.params, h.txBuf, h.rxBuf, fun hi => ?_, hq, hseq⟩
    have tx := h.tx hi
    have rx := h.rx hi
    exact ⟨tx.head_lt, tx.tail_lt, rx.head_lt, rx.tail_lt, rx.org_zero, rx.size_cap, tx.running, tx.idle, rx.batch,
      h.caps hi, h.flags hi⟩

theorem Inv.sound (h : Inv s) : Sound s := (inv_iff.1 h).1

/-! What keeps the transmit registers -/

section
variable {p : Params} {head tail len : Idx} {run : Bool}

/-- Every index that a ring operation stores is below the capacity (spec/00_scope.md R4, R9). -/
theorem idxOf_ringAdd_toNat {a k c : Nat} (h : 2 ≤ c ∧ c ≤ 2 ^ 23) : (idxOf (ringAdd a k c)).toNat = ringAdd a k c := by
  have := ringAdd_lt (a := a) (k := k) (c := c) (by omega)
  exact idxOf_toNat (by omega)

theorem idxOf_ringAdd_lt {a k c : Nat} (h : 2 ≤ c ∧ c ≤ 2 ^ 23) : (idxOf (ringAdd a k c)).toNat < c := by
  rw [idxOf_ringAdd_toNat h]
  exact ringAdd_lt (by omega)

theorem txCap_range (h : p.WellFormed) : 2 ≤ p.txCap ∧ p.txCap ≤ 2 ^ 23 := ⟨h.1, h.2.1⟩

theorem rxCap_range (h : p.WellFormed) : 2 ≤ p.rxCap ∧ p.rxCap ≤ 2 ^ 23 := h.2.2

theorem idxOf_rxCap_toNat (h : p.WellFormed) : (idxOf p.rxCap).toNat = p.rxCap := by
  have := rxCap_range h
  exact idxOf_toNat (by omega)

/-- Idle, the pair `TXRUN`, `TXLEN` asks nothing of the indices but their range. -/
theorem TxOk.of_idle (hh : head.toNat < p.txCap) (ht : tail.toNat < p.txCap) : TxOk p head tail false 0#24 :=
  ⟨hh, ht, fun h => (by cases h), fun _ => rfl⟩

theorem runLen_toNat (hp : p.WellFormed) (hh : head.toNat < p.txCap) (ht : tail.toNat < p.txCap) (hne : head ≠ tail) :
    (idxOf (runLen p head tail)).toNat = runLen p head tail := by
  have := txCap_range hp
  have := runLen_bounds hh ht hne
  exact idxOf_toNat (by omega)

/-- Submitting the longest run from the head of a queue that holds something (spec/40_tx_engine.md R123). -/
theorem TxOk.start (h : TxOk p head tail run len) (hp : p.WellFormed) (hne : head ≠ tail) :
    TxOk p head tail true (idxOf (runLen p head tail)) := by
  refine ⟨h.head_lt, h.tail_lt, fun _ => ?_, fun hr => by cases hr⟩
  rw [runLen_toNat hp h.head_lt h.tail_lt hne]
  exact runLen_bounds h.head_lt h.tail_lt hne

/-- Publishing bytes that fit moves the tail and leaves the committed run queued (spec/40_tx_engine.md R121). -/
theorem TxOk.publish {n : Nat} (h : TxOk p head tail run len) (hp : p.WellFormed) (hn : n ≤ txFree p head tail) :
    TxOk p head (idxOf (ringAdd tail.toNat n p.txCap)) run len := by
  refine ⟨h.head_lt, idxOf_ringAdd_lt (txCap_range hp), fun hr => ?_, h.idle⟩
  obtain ⟨h1, hused, hend⟩ := h.running hr
  have hfree := txUsed_add_txFree h.head_lt h.tail_lt
  have hpos := txCap_range hp
  have hgrown : txUsed p head (idxOf (ringAdd tail.toNat n p.txCap)) = txUsed p head tail + n := by
    unfold txUsed at *
    rw [idxOf_ringAdd_toNat (txCap_range hp), ringDist_add_right h.head_lt h.tail_lt (by omega)]
  exact ⟨h1, by omega, hend⟩

/-- The credit of a completed run gives its slots back (spec/40_tx_engine.md R125). -/
theorem TxOk.txFree_credit (h : TxOk p head tail true len) (hp : p.WellFormed) :
    txFree p head tail ≤ txFree p (idxOf (ringAdd head.toNat len.toNat p.txCap)) tail := by
  obtain ⟨-, hused, -⟩ := h.running rfl
  unfold txFree txUsed at *
  rw [idxOf_ringAdd_toNat (txCap_range hp), ringDist_add_left h.head_lt h.tail_lt hused]
  omega

end

/-! What keeps `FLAGS` -/

/-- Writing `SHORT` leaves the bits that spec/10_state.md R33 holds at 0. -/
theorem setShort_le_one {b : Bool} {f : BitVec 8} (h : f.toNat ≤ 1) : (setShort b f).toNat ≤ 1 := by
  have hf : f = 0#8 ∨ f = 1#8 := by
    rcases Nat.le_one_iff_eq_zero_or_eq_one.1 h with h | h
    · exact .inl (BitVec.eq_of_toNat_eq h)
    · exact .inr (BitVec.eq_of_toNat_eq h)
  rcases hf with rfl | rfl <;> cases b <;> decide

/-! What each action keeps -/

namespace Sound

theorem leaveRunning (h : Sound s) : Sound s.leaveRunning :=
  { h with tx := fun hi => .of_idle (h.tx hi).head_lt (h.tx hi).tail_lt }

theorem creditRun (h : Sound s) : Sound s.creditRun :=
  { h with tx := fun hi => .of_idle (idxOf_ringAdd_lt (txCap_range h.params)) (h.tx hi).tail_lt }

theorem continueAction (h : Sound s) : Sound (continueAction s).2 := by
  rcases continueAction_cases s with ⟨-, e⟩ | ⟨-, -, -, e⟩ | ⟨-, hne, -, e⟩ <;> rw [e]
  · exact h
  · exact { h with
      tx := fun hi => .of_idle (h.tx hi).head_lt (h.tx hi).tail_lt
      rx := by simpa using h.rx }
  · exact { h with
      tx := fun hi => (h.tx hi).start h.params hne
      rx := by simpa using h.rx }

theorem capAbortTx (h : Sound s) : Sound (capAbortTx s).2 := { h with rx := by simpa using h.rx }

theorem capRxRemaining (h : Sound s) : Sound (capRxRemaining s).2 where
  params := by simpa using h.params
  txBuf := by simpa using h.txBuf
  rxBuf := by simpa using h.rxBuf
  tx := by simpa using h.tx
  rx := by simpa using h.rx
  caps := by simpa using h.caps
  flags := by simpa using h.flags

theorem refreshTail (h : Sound s) (r : Word) : Sound (s.refreshTail r) :=
  { h with rx := fun hi => { h.rx hi with tail_lt := idxOf_ringAdd_lt (rxCap_range h.params) } }

theorem setShort (h : Sound s) (b : Bool) : Sound { s with flags := setShort b s.flags } :=
  { h with flags := fun hi => setShort_le_one (h.flags hi) }

/-- A successful rearm arms `(0, RX_CAP)` again; a failed one changes nothing (spec/41_rx_engine.md R158, R159). -/
theorem rearm (h : Sound s) : Sound (rearm s).2 := by
  have hcap := idxOf_rxCap_toNat h.params
  have hrx : s.inited = true → idxOf (ringAdd s.rxOrg.toNat s.rxSize.toNat s.params.rxCap) = 0#24 := fun hi => by
    rw [(h.rx hi).org_zero, (h.rx hi).size_cap]
    simp [ringAdd, idxOf]
  rcases rearm_cases s with ⟨he, e⟩ | ⟨he, e⟩ <;> rw [e]
  · exact { h with rx := by simpa [capStartRx_env, he] using h.rx }
  · exact { h with
      rx := fun hi => ⟨(h.rx hi).head_lt, (h.rx hi).tail_lt, hrx hi, hcap, _, by rw [capStartRx_env, he]; rfl, rfl, rfl,
        Nat.le_refl _⟩ }

/-- What a successful INIT leaves, whatever the registers held (spec/42_device_lifecycle.md R181). -/
theorem initialised {m : BitVec 6} (h : Sound s) (hm : suppliesMandatory s.params m = true) (he : isErr s.choice.resp = false) :
    Sound ((capStartRx 0#24 (idxOf s.params.rxCap) s).2.zeroed m) := by
  have htx : 0 < s.params.txCap := by have := txCap_range h.params; omega
  have hrx : 0 < s.params.rxCap := by have := rxCap_range h.params; omega
  exact {
    params := h.params
    txBuf := h.txBuf
    rxBuf := h.rxBuf
    tx := fun _ => .of_idle htx htx
    rx := fun _ => ⟨hrx, hrx, rfl, idxOf_rxCap_toNat h.params, ⟨0#24, _, _⟩, by simp [capStartRx_env, he], rfl, rfl,
      Nat.le_refl _⟩
    caps := fun _ => hm
    flags := fun _ => Nat.zero_le _ }

/-- An Uninitialised block is sound whatever its registers hold. -/
theorem uninit (h : Sound s) (hp : t.params = s.params) (htb : t.txBuf = s.txBuf) (hrb : t.rxBuf = s.rxBuf)
    (hi : t.inited = false) : Sound t := by
  have no : t.inited ≠ true := by simp [hi]
  exact ⟨hp ▸ h.params, by rw [htb, hp]; exact h.txBuf, by rw [hrb, hp]; exact h.rxBuf, fun h => absurd h no,
    fun h => absurd h no, fun h => absurd h no, fun h => absurd h no⟩

theorem initFailed (h : Sound s) (hu : s.inited = false) (off len : Idx) : Sound (capStartRx off len s).2 :=
  h.uninit rfl rfl rfl hu

/-- TEARDOWN, whatever its two aborts answer (spec/42_device_lifecycle.md R187). -/
theorem tornDown (h : Sound s) : Sound { (capAbortRx (Machine.capAbortTx s.leaveRunning).2).2 with inited := false } :=
  h.uninit rfl rfl rfl rfl

theorem capNowMillis (h : Sound s) : Sound (capNowMillis s).2 := { h with }

theorem copyIn {a : Nat} {src : List Byte} (h : Sound s) (hr : ringInRange a src.length s.params.txCap = true) :
    Sound { s with txBuf := ringWrite s.txBuf a s.params.txCap src } :=
  { h with txBuf := ringWrite_wf h.txBuf hr }

theorem publish {n : Nat} (h : Sound s) (hn : n ≤ txFree s.params s.txHead s.txTail) :
    Sound { s with txTail := idxOf (ringAdd s.txTail.toNat n s.params.txCap) } :=
  { h with tx := fun hi => (h.tx hi).publish h.params hn }

/-- A start that fails leaves the engine idle, so the tail may go anywhere in range: to the snapshot or to the head
(spec/40_tx_engine.md R122, R124). -/
theorem rollBack {v : Idx} (h : Sound s) (hv : v.toNat < s.params.txCap) (he : isErr (Machine.continueAction s).1 = true) :
    Sound { (Machine.continueAction s).2 with txTail := rolledBackTail s.params s.txHead v s.txTail } := by
  have hback (hh : s.txHead.toNat < s.params.txCap) : (rolledBackTail s.params s.txHead v s.txTail).toNat < s.params.txCap := by
    unfold rolledBackTail
    split
    · exact hv
    · exact hh
  have hc := h.continueAction
  rcases continueAction_cases s with ⟨-, e⟩ | ⟨-, -, -, e⟩ | ⟨-, -, -, e⟩ <;> rw [e] at he hc ⊢
  · rw [isErr_codeWord_ok] at he; cases he
  · exact { hc with tx := fun hi => .of_idle (h.tx hi).head_lt (hback (h.tx hi).head_lt) }
  · rw [isErr_codeWord_ok] at he; cases he

theorem release (h : Sound s) (a n : Nat) (b : Bool) :
    Sound { s with rxHead := idxOf (ringAdd a n s.params.rxCap), flags := Machine.setShort b s.flags } :=
  { h.setShort b with rx := fun hi => { h.rx hi with head_lt := idxOf_ringAdd_lt (rxCap_range h.params) } }

end Sound

/-! From the actions to the invariant: an operation ends, stands at a further step, or leaves APP's place alone -/

theorem Sound.answerApp (h : Sound s) (v : Word) (dst : List Byte) : Inv (s.answerApp v dst) :=
  inv_iff.2 ⟨{ h with }, fun hq => absurd rfl hq, trivial⟩

theorem Sound.standAt (h : Sound s) {q : AppSeq} (hi : s.inited = true) (hq : SeqOk (s.standAt q)) : Inv (s.standAt q) :=
  inv_iff.2 ⟨{ h with }, fun _ => hi, hq⟩

/-- The state is of the same APP operation as before, and what APP has snapshotted still holds: the tail and `RXHEAD` are APP's own
(spec/10_state.md R35), and the bytes that fit have not become fewer. -/
structure AppKept (s t : State) : Prop where
  params : t.params = s.params
  inited : t.inited = s.inited
  appSeq : t.appSeq = s.appSeq
  txBuf : t.txBuf = s.txBuf
  txTail : t.txTail = s.txTail
  rxHead : t.rxHead = s.rxHead
  free : s.inited = true → txFree s.params s.txHead s.txTail ≤ txFree s.params t.txHead s.txTail

theorem AppKept.seqOk (h : AppKept s t) (hi : s.appSeq ≠ .idle → s.inited = true) (hs : SeqOk s) : SeqOk t := by
  unfold SeqOk at *
  rw [h.appSeq, h.params, h.txBuf, h.txTail, h.rxHead]
  split at hs
  · trivial
  · obtain ⟨hl, h1, hn, ht, hf⟩ := hs
    exact ⟨hl, h1, hn, ht, hf.trans (h.free (hi (by simp [*])))⟩
  · obtain ⟨hl, h1, hn, ht, hf, hb⟩ := hs
    exact ⟨hl, h1, hn, ht, hf.trans (h.free (hi (by simp [*]))), hb⟩
  all_goals exact hs

theorem Inv.of_appKept (h : Inv s) (hk : AppKept s t) (ht : Sound t) : Inv t := by
  obtain ⟨-, hi, hq⟩ := inv_iff.1 h
  exact inv_iff.2 ⟨ht, by rwa [hk.appSeq, hk.inited], hk.seqOk hi hq⟩

/-- The moves that leave the block's transmit pair alone keep what APP has snapshotted. -/
theorem AppKept.of_eq (h : t.params = s.params ∧ t.inited = s.inited ∧ t.appSeq = s.appSeq ∧ t.txBuf = s.txBuf ∧
    t.txTail = s.txTail ∧ t.rxHead = s.rxHead ∧ t.txHead = s.txHead) : AppKept s t := by
  obtain ⟨hp, hi, hq, hb, ht, hr, hh⟩ := h
  exact ⟨hp, hi, hq, hb, ht, hr, fun _ => by rw [hh]⟩

/-- TX_COMPLETE gives slots back to APP and takes none (spec/40_tx_engine.md R125). -/
theorem appKept_credited (h : Sound s) (hr : s.txRun = true) (v : Word) :
    AppKept s ((continueAction s.creditRun).2.answerIrq v) where
  params := by simp
  inited := by simp
  appSeq := by simp
  txBuf := by simp
  txTail := by simp
  rxHead := by simp
  free hi := by simpa using TxOk.txFree_credit (hr ▸ h.tx hi) h.params

theorem Inv.answer (h : Inv s) (p : Port) (v : Word) : Inv (s.answer p v) := by
  cases p
  · exact h.sound.answerApp v []
  · exact h.of_appKept (.of_eq ⟨rfl, rfl, rfl, rfl, rfl, rfl, rfl⟩) { h.sound with }

theorem Inv.scheduled (h : Inv s) (rest : List Input) (src : List Byte) : Inv (s.scheduled rest src) :=
  h.of_appKept (.of_eq ⟨rfl, rfl, rfl, rfl, rfl, rfl, rfl⟩) { h.sound with }

theorem Inv.clearPend (h : Inv s) (e : Event) : Inv (s.clearPend e) :=
  h.of_appKept (.of_eq ⟨rfl, rfl, rfl, rfl, rfl, rfl, rfl⟩) { h.sound with }

theorem inv_resetWith {p : Params} (h : p.WellFormed) : Inv (State.resetWith p) := by
  refine inv_iff.2 ⟨⟨h, Memory.nil_wf _, Memory.nil_wf _, ?_, ?_, ?_, ?_⟩, fun hq => absurd rfl hq, trivial⟩
  all_goals exact fun hi => by cases hi

/-- ENQUEUE's bytes fit, so they are read back from where they were copied in (spec/20_memory.md R70). -/
theorem inv_copiedIn {v : EnqueueLocals} (h : Inv s) (hq : s.appSeq = .enqueue .e2 v)
    (hr : ringInRange v.t.toNat (v.src.take v.n.toNat).length s.params.txCap = true) :
    Inv ({ s with txBuf := ringWrite s.txBuf v.t.toNat s.params.txCap (v.src.take v.n.toNat) }.standAt (.enqueue .e3 v)) := by
  obtain ⟨hs, hi, hseq⟩ := inv_iff.1 h
  have hi := hi (by simp [hq])
  rw [SeqOk, hq] at hseq
  obtain ⟨hl, h1, hn, ht, hf⟩ := hseq
  have hlen : (v.src.take v.n.toNat).length = v.n.toNat := by rw [List.length_take]; omega
  have hfree := txUsed_add_txFree (hs.tx hi).head_lt (hs.tx hi).tail_lt
  have hback := ringRead_ringWrite_same (sp := .txBuf) (m := s.txBuf) (v := v.src.take v.n.toNat)
    (ht ▸ (hs.tx hi).tail_lt : v.t.toNat < s.params.txCap) (by omega)
  rw [hlen] at hback
  exact (hs.copyIn hr).standAt hi ⟨hl, h1, hn, ht, hf, hback⟩

theorem inv_published {v : EnqueueLocals} (h : Inv s) (hq : s.appSeq = .enqueue .e3 v) :
    Inv ({ s with txTail := idxOf (ringAdd v.t.toNat v.n.toNat s.params.txCap) }.standAt (.enqueue .e4 v)) := by
  obtain ⟨hs, hi, hseq⟩ := inv_iff.1 h
  have hi := hi (by simp [hq])
  rw [SeqOk, hq] at hseq
  obtain ⟨hl, h1, hn, ht, hf, -⟩ := hseq
  have htail := (hs.tx hi).tail_lt
  have hfree := txUsed_add_txFree (hs.tx hi).head_lt htail
  rw [ht]
  refine (hs.publish hf).standAt hi ⟨hl, h1, hn, ht ▸ htail, ?_, ?_⟩
  · show v.n.toNat < s.params.txCap; omega
  · rw [ht]; exact idxOf_ringAdd_toNat (txCap_range hs.params)

theorem inv_rolledBack {v : EnqueueLocals} (h : Inv s) (hq : s.appSeq = .enqueue .e4 v) (he : isErr (continueAction s).1 = true)
    (w : Word) :
    Inv ({ (continueAction s).2 with txTail := rolledBackTail s.params s.txHead v.t s.txTail }.answerApp w []) := by
  have hseq := h.seq
  rw [SeqOk, hq] at hseq
  obtain ⟨-, -, -, ht, -, -⟩ := hseq
  exact (h.sound.rollBack ht he).answerApp w []

theorem inv_admitted {len : Idx} (h : Inv s) (hi : s.inited = true) (hl : s.appSrc.length = len.toNat)
    (hn : min len.toNat (txFree s.params s.txHead s.txTail) ≠ 0) :
    Inv (s.standAt
      (.enqueue .e2 ⟨len, s.appSrc, s.txTail, idxOf (min len.toNat (txFree s.params s.txHead s.txTail))⟩)) := by
  have hlen := len.isLt
  have hn' : (idxOf (min len.toNat (txFree s.params s.txHead s.txTail))).toNat =
      min len.toNat (txFree s.params s.txHead s.txTail) := idxOf_toNat (by omega)
  refine h.sound.standAt hi ⟨hl, ?_, ?_, rfl, ?_⟩ <;>
    simp only [hn', State.standAt_params, State.standAt_txHead, State.standAt_txTail] <;> omega

theorem inv_counted {m : Idx} (h : Inv s) (hq : s.appSeq = .readR2 m)
    (hn : min m.toNat (rxAvail s.params s.rxHead s.rxTail) ≠ 0) :
    Inv (s.standAt (.readR3 m s.rxHead (idxOf (min m.toNat (rxAvail s.params s.rxHead s.rxTail))))) := by
  have hi := h.seqInited (by simp [hq])
  have hm := m.isLt
  have hn' : (idxOf (min m.toNat (rxAvail s.params s.rxHead s.rxTail))).toNat =
      min m.toNat (rxAvail s.params s.rxHead s.rxTail) := idxOf_toNat (by omega)
  have havail : rxAvail s.params s.rxHead s.rxTail < s.params.rxCap := ringDist_lt (h.live hi).rxHead_lt (h.live hi).rxTail_lt
  refine h.sound.standAt hi ⟨rfl, ?_, ?_, ?_⟩ <;> simp only [hn', State.standAt_params] <;> omega

theorem inv_copiedOut {m hd n : Idx} (h : Inv s) (hq : s.appSeq = .readR3 m hd n) :
    Inv (s.standAt (.readR4 m hd n (ringRead .rxBuf s.rxBuf hd.toNat n.toNat s.params.rxCap))) := by
  have hseq := h.seq
  rw [SeqOk, hq] at hseq
  obtain ⟨hh, h1, hn, hcap⟩ := hseq
  exact h.sound.standAt (h.seqInited (by simp [hq])) ⟨hh, h1, hn, hcap, ringRead_length ..⟩

/-- FLUSH goes on only where timeouts are configured (spec/42_device_lifecycle.md R185). -/
theorem inv_clockRead {m : Idx} (h : Inv s) (hq : s.appSeq = .flushF2 m ∨ ∃ t1, s.appSeq = .flushF3 m t1) (t0 : Timestamp) :
    Inv ((capNowMillis s).2.standAt (.flushF3 m t0)) := by
  have hseq := h.seq
  have hok : s.inited = true ∧ s.params.timeout = true := by
    rcases hq with hq | ⟨t1, hq⟩ <;> rw [SeqOk, hq] at hseq <;> exact ⟨h.seqInited (by simp [hq]), hseq⟩
  exact h.sound.capNowMillis.standAt hok.1 hok.2

/-- Every operation keeps the invariant. -/
theorem exec_keeps_inv {i : Instr} (h : Inv s) (hx : exec i s = .next t) : Inv t := by
  have hs := h.sound
  have href := hs.capRxRemaining.refreshTail (capRxRemaining s).1
  cases exec_effect hx with
  | answeredApp v => exact hs.answerApp v []
  | answeredIrq v => exact h.answer .irq v
  | initFailed m hu => exact (hs.initFailed hu _ _).answerApp _ _
  | initialised m hu hm he => exact (hs.initialised hm he).answerApp _ _
  | continued => exact hs.continueAction.answerApp _ _
  | aborted => exact hs.leaveRunning.capAbortTx.answerApp _ _
  | tornDown => exact hs.tornDown.answerApp _ _
  | credited hi hr => exact h.of_appKept (appKept_credited hs hr _) { hs.creditRun.continueAction with }
  | refreshed => exact h.of_appKept (.of_eq (by simp)) { href with }
  | rearmed => exact h.of_appKept (.of_eq (by simp)) { href.rearm with }
  | nothingToCopy _ b => exact (hs.setShort b).answerApp _ _
  | admitted len hi hl hn => exact inv_admitted h hi hl hn
  | copiedIn len v hq hr => exact inv_copiedIn h hq hr
  | published len v hq => exact inv_published h hq
  | kicked len v hq b => rw [← continueAction_flags s]; exact (hs.continueAction.setShort b).answerApp _ _
  | rolledBack len v hq he => exact inv_rolledBack h hq he _
  | readRefreshed m hq hi => exact href.standAt (by simpa using hi) trivial
  | counted m m' hq hn => exact inv_counted h hq hn
  | copiedOut m m' hd n hq => exact inv_copiedOut h hq
  | released m m' hd n dst hq b => exact (hs.release _ _ b).answerApp _ dst
  | flushBegun m hi ht => exact hs.standAt hi ht
  | clockRead m m' t0 hq => exact inv_clockRead h hq t0
  | timedOut => exact hs.capNowMillis.answerApp _ _

/-- A byte that arrives goes to a slot of the buffer and is counted down in the batch (spec/43_capability_calls.md R211). -/
theorem Sound.storeArrival {x : Batch} {b : Byte} (h : Sound s) (hx : s.env.rxBatch = some x) (h0 : x.rem ≠ 0#24)
    (hslot : x.off.toNat + (x.len.toNat - x.rem.toNat) < s.params.rxCap) : Sound (storeArrival x b s) := by
  refine { h with rxBuf := Memory.store_wf h.rxBuf hslot, rx := fun hi => { h.rx hi with batch := ?_ } }
  obtain ⟨b', hb, hoff, hlen, hrem⟩ := (h.rx hi).batch
  cases hx.symm.trans hb
  have hdown : (x.rem - 1#24).toNat ≤ x.rem.toNat := by bv_omega
  exact ⟨_, rfl, hoff, hlen, hdown.trans hrem⟩

theorem env_keeps_inv (h : Inv s) (he : EnvEffect s t) : Inv t := by
  have hs := h.sound
  cases he with
  | dropped => exact h
  | arrived x b hx h0 hslot => exact h.of_appKept (.of_eq ⟨rfl, rfl, rfl, rfl, rfl, rfl, rfl⟩) (hs.storeArrival hx h0 hslot)
  | completed r => exact h.of_appKept (.of_eq ⟨rfl, rfl, rfl, rfl, rfl, rfl, rfl⟩) { hs with }
  | raised e => exact h.of_appKept (.of_eq ⟨rfl, rfl, rfl, rfl, rfl, rfl, rfl⟩) { hs with }
  | ticked k => exact h.of_appKept (.of_eq ⟨rfl, rfl, rfl, rfl, rfl, rfl, rfl⟩) { hs with }

end Sys2Proof.Machine

namespace Sys2Proof.Proofs

open Sys2Proof.Machine

/-- Settles O51: the invariant over each kind of step; the operations by what each leaves. -/
theorem stepKeepsInv : Obligations.StepKeepsInv := by
  intro s t h hstep
  cases step_effect hstep with
  | waits => exact h
  | runs rest src he => exact exec_keeps_inv (h.scheduled rest src) he
  | rejects rest src p v => exact (h.scheduled rest src).answer p v
  | takes rest e _ he => exact exec_keeps_inv ((h.scheduled rest _).clearPend e) he
  | env rest he => exact env_keeps_inv (h.scheduled rest _) he
  | resets => exact inv_iff.2 ⟨{ (inv_resetWith h.params).sound with }, fun hq => absurd rfl hq, trivial⟩

end Sys2Proof.Proofs

/-! The agreement of the block's Tx state with ENV's run (spec/10_state.md R40 (d)). -/

namespace Sys2Proof.Machine

variable {s t : State}

/-- The agreement is about six fields only. -/
theorem TxCoupled.of_eq (h : TxCoupled s) (e : t.inited = s.inited ∧ t.txHead = s.txHead ∧ t.txRun = s.txRun ∧
    t.txLen = s.txLen ∧ t.env.txRun = s.env.txRun ∧ t.env.pend.txComplete = s.env.pend.txComplete) : TxCoupled t := by
  obtain ⟨hi, hh, hr, hl, hf, hp⟩ := e
  constructor <;> rw [hi] <;> simp only [hh, hr, hl, hf, hp]
  exacts [h.uninit, h.idle, h.running]

/-- Where the engine is not Running and ENV has neither a run nor a completion of one, they agree. -/
theorem TxCoupled.of_quiet (hr : t.inited = true → t.txRun = false) (hf : t.env.txRun = none)
    (hp : t.env.pend.txComplete = false) : TxCoupled t :=
  ⟨fun _ => ⟨hf, hp⟩, fun _ _ => ⟨hf, hp⟩, fun hi h => by rw [hr hi] at h; cases h⟩

/-- A start is made from Idle, where ENV has no run, so an accepted one is in flight as the block has it
(spec/43_capability_calls.md R214). -/
theorem TxCoupled.continueAction (h : TxCoupled s) (hi : s.inited = true) : TxCoupled (continueAction s).2 := by
  rcases continueAction_cases s with ⟨-, e⟩ | ⟨hr, -, he, e⟩ | ⟨hr, -, he, e⟩ <;> rw [e]
  · exact h
  · obtain ⟨hf, hp⟩ := h.idle hi hr
    refine .of_quiet (fun _ => rfl) ?_ ?_ <;> simp [afterStartTx_none hf, he, hf, hp]
  · obtain ⟨hf, hp⟩ := h.idle hi hr
    refine ⟨fun hu => absurd (hi.symm.trans hu) (by decide), fun _ h0 => (by cases h0), fun _ _ => .inl ?_⟩
    simp [afterStartTx_none hf, he, hp]

/-- Only a run that ENV has completed raises TX_COMPLETE, and the block is Running then. -/
theorem TxCoupled.of_pending (h : TxCoupled s) (hp : s.env.pend.txComplete = true) : s.env.txRun = none := by
  cases hi : s.inited
  · exact (h.uninit hi).1
  · cases hr : s.txRun
    · exact (h.idle hi hr).1
    · rcases h.running hi hr with ⟨-, h0⟩ | ⟨h0, -⟩
      · rw [hp] at h0; cases h0
      · exact h0

/-- A run in flight is the block's own. -/
theorem TxCoupled.of_inFlight {r : Run} (h : TxCoupled s) (hr : s.env.txRun = some r) : s.inited = true ∧ s.txRun = true := by
  cases hi : s.inited
  · rw [(h.uninit hi).1] at hr; cases hr
  · cases hb : s.txRun
    · rw [(h.idle hi hb).1] at hr; cases hr
    · exact ⟨rfl, rfl⟩

/-- An abort that a step logged did not fail. -/
theorem AbortsOk.of_logged {pre post : List CapCall} {c : CapCall} (h : AbortsOk s t)
    (hn : t.calls = (pre ++ c :: post) ++ s.calls) (hc : c.cap = .abortTx ∨ c.cap = .abortRx) : isErr c.resp = false :=
  h _ hn c (by simp) hc

theorem coupled_aborted {v : Word} (ha : AbortsOk s ((capAbortTx s.leaveRunning).2.answerApp v [])) :
    TxCoupled ((capAbortTx s.leaveRunning).2.answerApp v []) := by
  have htx := ha.of_logged (pre := []) (c := ⟨.abortTx, 0#24, 0#24, abortTxResponse s⟩) (post := []) (by simp) (.inl rfl)
  obtain ⟨hf, hp⟩ := capAbortTx_ok s.leaveRunning htx
  exact .of_quiet (fun _ => rfl) hf hp

theorem coupled_tornDown {v : Word}
    (ha : AbortsOk s ({ (capAbortRx (capAbortTx s.leaveRunning).2).2 with inited := false }.answerApp v [])) :
    TxCoupled ({ (capAbortRx (capAbortTx s.leaveRunning).2).2 with inited := false }.answerApp v []) := by
  have htx := ha.of_logged (pre := [_]) (c := ⟨.abortTx, 0#24, 0#24, abortTxResponse s⟩) (post := []) (by simp; rfl) (.inl rfl)
  have hrx := ha.of_logged (pre := []) (c := ⟨.abortRx, 0#24, 0#24, (capAbortTx s.leaveRunning).2.choice.resp⟩)
    (post := [_]) (by simp; rfl) (.inr rfl)
  obtain ⟨hf, hp⟩ := capAbortTx_ok s.leaveRunning htx
  obtain ⟨hf', hp'⟩ := capAbortRx_ok hrx
  exact .of_quiet (fun hi => by cases hi) (hf'.trans hf) (hp'.trans hp)

/-- Every operation but TX_COMPLETE keeps the agreement. -/
theorem exec_keeps_coupling {i : Instr} (hInv : Inv s) (h : TxCoupled s) (hne : i ≠ .txComplete) (hx : exec i s = .next t)
    (ha : AbortsOk s t) : TxCoupled t := by
  cases exec_effect hx with
  | initialised m hu hm he =>
    obtain ⟨hf, hp⟩ := h.uninit hu
    exact .of_quiet (fun _ => rfl) (by simpa using hf) (by simpa using hp)
  | continued hi => exact (h.continueAction hi).of_eq (by simp)
  | aborted => exact coupled_aborted ha
  | tornDown => exact coupled_tornDown ha
  | credited => exact absurd rfl hne
  | kicked len v hq | rolledBack len v hq => exact (h.continueAction (hInv.seqInited (by simp [hq]))).of_eq (by simp)
  | _ => exact h.of_eq (by simp)

/-- TX_COMPLETE taken as an event credits the run that ENV has completed (spec/60_exceptions.md R246). -/
theorem takeCompletion_keeps_coupling (h : TxCoupled s) (hp : s.env.pend.txComplete = true)
    (hx : exec .txComplete (s.clearPend .txComplete) = .next t) : TxCoupled t := by
  have hf := h.of_pending hp
  obtain ⟨hu, rfl⟩ | ⟨-, hr, rfl⟩ | ⟨hi, -, rfl⟩ := execTxComplete_next hx
  · exact .of_quiet (fun hi => absurd (hu.symm.trans hi) (by decide)) hf rfl
  · exact .of_quiet (fun _ => hr) hf rfl
  · have hq : TxCoupled (s.clearPend .txComplete).creditRun := .of_quiet (fun _ => rfl) hf rfl
    exact (hq.continueAction hi).of_eq ⟨rfl, rfl, rfl, rfl, rfl, rfl⟩

theorem env_keeps_coupling (h : TxCoupled s) (he : EnvEffect s t) : TxCoupled t := by
  cases he with
  | dropped => exact h
  | arrived x b =>
    refine h.of_eq ⟨rfl, rfl, rfl, rfl, rfl, ?_⟩
    simp only [storeArrival]
    split <;> rfl
  | completed r hr =>
    obtain ⟨hi, hb⟩ := h.of_inFlight hr
    exact ⟨fun hu => absurd (hi.symm.trans hu) (by decide), fun _ h0 => absurd (hb.symm.trans h0) (by decide),
      fun _ _ => .inr ⟨rfl, rfl⟩⟩
  | raised e hne => exact h.of_eq ⟨rfl, rfl, rfl, rfl, rfl, Pend.get_put_other _ _ (e' := .txComplete) hne.symm⟩
  | ticked k => exact h.of_eq ⟨rfl, rfl, rfl, rfl, rfl, rfl⟩

theorem Event.instr_eq_txComplete {e : Event} : e.instr = .txComplete ↔ e = .txComplete := by
  cases e <;> simp [Event.instr]

/-- An event taken clears its own bit and no other. -/
theorem take_keeps_coupling {e : Event} (hInv : Inv s) (h : TxCoupled s) (hp : s.env.pend.get e = true)
    (hx : exec e.instr (s.clearPend e) = .next t) (ha : AbortsOk s t) : TxCoupled t := by
  by_cases he : e = .txComplete
  · subst he
    exact takeCompletion_keeps_coupling h hp hx
  · have hcleared : TxCoupled (s.clearPend e) :=
      h.of_eq ⟨rfl, rfl, rfl, rfl, rfl, Pend.get_put_other _ _ (e' := .txComplete) (Ne.symm he)⟩
    exact exec_keeps_coupling (hInv.clearPend e) hcleared (mt Event.instr_eq_txComplete.1 he) hx ha

theorem TxCoupled.scheduled (h : TxCoupled s) (rest : List Input) (src : List Byte) : TxCoupled (s.scheduled rest src) :=
  h.of_eq ⟨rfl, rfl, rfl, rfl, rfl, rfl⟩

end Sys2Proof.Machine

namespace Sys2Proof.Proofs

open Sys2Proof.Machine

/-- Settles O52: a run starts from Idle only, and TX_COMPLETE runs only where ENV has completed one. -/
theorem stepKeepsTxCoupling : Obligations.StepKeepsTxCoupling := by
  intro s t hInv h hstray hstep ha
  cases step_effect hstep with
  | waits => exact h
  | runs rest src hx hi =>
    refine exec_keeps_coupling (hInv.scheduled rest src) (h.scheduled rest src) (fun e => ?_) hx ha
    obtain ⟨cw, hin, hd⟩ := hi e
    exact hstray cw hin hd
  | rejects rest src p v => cases p <;> exact h.of_eq ⟨rfl, rfl, rfl, rfl, rfl, rfl⟩
  | takes rest e hp hx => exact take_keeps_coupling (hInv.scheduled rest _) (h.scheduled rest _) hp hx ha
  | env rest he => exact env_keeps_coupling (h.scheduled rest _) he
  | resets => exact .of_quiet (fun _ => rfl) rfl rfl

end Sys2Proof.Proofs

/-! ENV's front and the tail behind it (spec/10_state.md R41, spec/41_rx_engine.md R163 (b)). -/

namespace Sys2Proof.Machine

variable {s t : State}

/-- From `s` to `t` the front moved by the bytes that arrived, and the tail stayed or went to the front. -/
structure FollowsFront (s t : State) : Prop where
  front : rxFront t = ringAdd (rxFront s) (t.env.rxLine.length - s.env.rxLine.length) s.params.rxCap
  tail : t.rxTail = s.rxTail ∨ t.rxTail.toNat = rxFront s

/-- The front of an Initialised block is where a refresh puts the tail (spec/41_rx_engine.md R153, spec/20_memory.md R73). -/
theorem rxFront_eq_refresh (h : Sound s) (hi : s.inited = true) :
    rxFront s = ringAdd s.rxOrg.toNat (s.rxSize.toNat - (capRxRemaining s).1.toNat) s.params.rxCap := by
  obtain ⟨b, hb, -⟩ := (h.rx hi).batch
  simp only [rxFront, hb, capRxRemaining_armed hb, countWord_toNat]

theorem rxFront_lt (h : Sound s) (hi : s.inited = true) : rxFront s < s.params.rxCap := by
  have := rxCap_range h.params
  rw [rxFront_eq_refresh h hi]
  exact ringAdd_lt (by omega)

theorem refreshTail_eq_rxFront (h : Sound s) (hi : s.inited = true) :
    (idxOf (ringAdd s.rxOrg.toNat (s.rxSize.toNat - (capRxRemaining s).1.toNat) s.params.rxCap)).toNat = rxFront s := by
  rw [rxFront_eq_refresh h hi]
  exact idxOf_ringAdd_toNat (rxCap_range h.params)

/-- Where neither the batch nor its geometry changes and nothing arrives, the front stays. -/
theorem FollowsFront.of_still (h : Sound s) (hi : s.inited = true) (e : t.params = s.params ∧ t.rxOrg = s.rxOrg ∧
    t.rxSize = s.rxSize ∧ t.env.rxBatch = s.env.rxBatch ∧ t.env.rxLine = s.env.rxLine)
    (ht : t.rxTail = s.rxTail ∨ t.rxTail.toNat = rxFront s) : FollowsFront s t := by
  obtain ⟨hp, ho, hz, hb, hl⟩ := e
  obtain ⟨b, hs, -⟩ := (h.rx hi).batch
  have hfront : rxFront t = rxFront s := by simp only [rxFront, hp, ho, hz, hb, hs]
  exact ⟨by rw [hfront, hl, Nat.sub_self, ringAdd_zero (rxFront_lt h hi)], ht⟩

/-- At a batch boundary the finished batch ends where it began, so the rearm leaves the front there (spec/41_rx_engine.md R158). -/
theorem followsFront_rearmed (h : Sound s) (hi : s.inited = true) (h0 : (capRxRemaining s).1 = 0#32) (v : Word) :
    FollowsFront s ((rearm ((capRxRemaining s).2.refreshTail (capRxRemaining s).1)).2.answerIrq v) := by
  have htail := refreshTail_eq_rxFront h hi
  rcases rearm_cases ((capRxRemaining s).2.refreshTail (capRxRemaining s).1) with ⟨he, e⟩ | ⟨he, e⟩ <;>
    rw [choice_refreshTail] at he
  · exact .of_still h hi (by rw [e]; simp [capStartRx_env, he]) (.inr (by simpa using htail))
  · have hcap := idxOf_rxCap_toNat h.params
    have horg : (idxOf 0).toNat = 0 := rfl
    have hfront : rxFront s = 0 := by
      rw [rxFront_eq_refresh h hi, h0, (h.rx hi).org_zero, (h.rx hi).size_cap]
      simp [ringAdd]
    refine ⟨?_, .inr (by simpa using htail)⟩
    rw [e, hfront]
    simp [rxFront, capStartRx_env, he, hcap, horg, ringAdd, (h.rx hi).org_zero, (h.rx hi).size_cap]

theorem exec_followsFront {i : Instr} (h : Sound s) (hi : s.inited = true) (ht : t.inited = true) (hx : exec i s = .next t) :
    FollowsFront s t := by
  cases exec_effect hx with
  | initFailed m hu | initialised m hu => rw [hi] at hu; cases hu
  | tornDown => cases ht
  | refreshed | readRefreshed => exact .of_still h hi (by simp) (.inr (by simpa using refreshTail_eq_rxFront h hi))
  | rearmed _ h0 => exact followsFront_rearmed h hi h0 _
  | _ => exact .of_still h hi (by simp) (.inl (by simp))

theorem ringAdd_ringAdd (a k j c : Nat) : ringAdd (ringAdd a k c) j c = ringAdd a (k + j) c := by
  simp [ringAdd, Nat.add_assoc]

/-- A byte that arrives moves the front by one slot (spec/43_capability_calls.md R211). -/
theorem followsFront_arrived {x : Batch} {b : Byte} (h : Sound s) (hi : s.inited = true) (hx : s.env.rxBatch = some x)
    (h0 : x.rem ≠ 0#24) : FollowsFront s (storeArrival x b s) := by
  obtain ⟨b', hb, -, hlen, hrem⟩ := (h.rx hi).batch
  cases hx.symm.trans hb
  have hdown : (x.rem - 1#24).toNat = x.rem.toNat - 1 := by bv_omega
  have hpos : 0 < x.rem.toNat := by bv_omega
  rw [hlen] at hrem
  have hnext : s.rxSize.toNat - (x.rem.toNat - 1) = s.rxSize.toNat - x.rem.toNat + 1 := by omega
  have hline : (storeArrival x b s).env.rxLine.length - s.env.rxLine.length = 1 := by simp [storeArrival]
  refine ⟨?_, .inl rfl⟩
  rw [hline]
  simp only [rxFront, storeArrival, hx, hdown, hnext, ringAdd_ringAdd]

theorem env_followsFront (h : Sound s) (hi : s.inited = true) (he : EnvEffect s t) : FollowsFront s t := by
  cases he with
  | arrived x b hx h0 => exact followsFront_arrived h hi hx h0
  | _ => exact .of_still h hi ⟨rfl, rfl, rfl, rfl, rfl⟩ (.inl rfl)

end Sys2Proof.Machine

namespace Sys2Proof.Proofs

open Sys2Proof.Machine

/-- Settles O55: an arrival moves the front, a refresh puts the tail there, and nothing else moves either. -/
theorem tailFollowsTheFront : Obligations.TailFollowsTheFront := by
  intro s t h hreset hi ht hstep
  suffices FollowsFront s t from ⟨this.front, this.tail⟩
  have hs := h.sound
  cases step_effect hstep with
  | waits => exact .of_still hs hi ⟨rfl, rfl, rfl, rfl, rfl⟩ (.inl rfl)
  | runs rest src hx =>
    have hf := exec_followsFront (h.scheduled rest src).sound hi ht hx
    exact ⟨hf.front, hf.tail⟩
  | rejects rest src p v => cases p <;> exact .of_still hs hi ⟨rfl, rfl, rfl, rfl, rfl⟩ (.inl rfl)
  | takes rest e _ hx =>
    have hf := exec_followsFront ((h.scheduled rest _).clearPend e).sound hi ht hx
    exact ⟨hf.front, hf.tail⟩
  | env rest he =>
    have hf := env_followsFront (h.scheduled rest _).sound hi he
    exact ⟨hf.front, hf.tail⟩
  | resets rest hr => exact absurd hr hreset

end Sys2Proof.Proofs

/-! The table of writers (spec/10_state.md R35), register by register, and what stays of the buffers and of APP's state. -/

namespace Sys2Proof.Machine

variable {s t : State} {i : Instr}

theorem exec_txHead (h : exec i s = .next t) :
    t.txHead = s.txHead ∨ (∃ m, i = .init m ∧ s.inited = false ∧ t.txHead = 0#24) ∨ i = .txComplete := by
  cases exec_effect h with
  | initialised m hu => exact .inr (.inl ⟨m, rfl, hu, rfl⟩)
  | credited => exact .inr (.inr rfl)
  | _ => exact .inl (by simp)

theorem exec_txTail (h : exec i s = .next t) :
    t.txTail = s.txTail ∨ (∃ m, i = .init m ∧ s.inited = false) ∨ ∃ len, i = .enqueue len := by
  cases exec_effect h with
  | initialised m hu => exact .inr (.inl ⟨m, rfl, hu⟩)
  | published len | rolledBack len => exact .inr (.inr ⟨len, rfl⟩)
  | _ => exact .inl (by simp)

theorem exec_txPair (h : exec i s = .next t) :
    (t.txRun = s.txRun ∧ t.txLen = s.txLen) ∨ (∃ m, i = .init m ∧ s.inited = false) ∨ (∃ len, i = .enqueue len) ∨
      i = .cont ∨ i = .abortTx ∨ i = .teardown ∨ i = .txComplete := by
  cases exec_effect h with
  | initialised m hu => exact .inr (.inl ⟨m, rfl, hu⟩)
  | kicked | rolledBack | continued | aborted | tornDown | credited => exact .inr (by simp)
  | _ => exact .inl (by simp)

theorem exec_rxHead (h : exec i s = .next t) :
    t.rxHead = s.rxHead ∨ (∃ m, i = .init m ∧ s.inited = false) ∨ ∃ m, i = .read m := by
  cases exec_effect h with
  | initialised m hu => exact .inr (.inl ⟨m, rfl, hu⟩)
  | released m => exact .inr (.inr ⟨m, rfl⟩)
  | _ => exact .inl (by simp)

theorem exec_rxTail (h : exec i s = .next t) :
    t.rxTail = s.rxTail ∨ (∃ m, i = .init m ∧ s.inited = false) ∨ (∃ m, i = .read m ∧ s.appSeq = .idle) ∨
      i = .idleLine ∨ i = .rxHalf ∨ i = .rxComplete := by
  cases exec_effect h with
  | initialised m hu => exact .inr (.inl ⟨m, rfl, hu⟩)
  | readRefreshed m hq => exact .inr (.inr (.inl ⟨m, rfl, hq⟩))
  | refreshed hr => exact .inr (.inr (.inr hr))
  | rearmed => exact .inr (by simp)
  | _ => exact .inl (by simp)

theorem exec_rxGeometry (h : exec i s = .next t) :
    (t.rxOrg = s.rxOrg ∧ t.rxSize = s.rxSize) ∨ (∃ m, i = .init m ∧ s.inited = false) ∨ i = .rxComplete := by
  cases exec_effect h with
  | initialised m hu => exact .inr (.inl ⟨m, rfl, hu⟩)
  | rearmed => exact .inr (.inr rfl)
  | _ => exact .inl (by simp)

theorem exec_inited (h : exec i s = .next t) :
    t.inited = s.inited ∨ (∃ m, i = .init m ∧ s.inited = false) ∨ i = .teardown := by
  cases exec_effect h with
  | initialised m hu => exact .inr (.inl ⟨m, rfl, hu⟩)
  | tornDown => exact .inr (.inr rfl)
  | _ => exact .inl (by simp)

theorem exec_caps (h : exec i s = .next t) : t.caps = s.caps ∨ ∃ m, i = .init m ∧ s.inited = false := by
  cases exec_effect h with
  | initialised m hu => exact .inr ⟨m, rfl, hu⟩
  | _ => exact .inl (by simp)

theorem exec_flags (h : exec i s = .next t) :
    t.flags = s.flags ∨ (∃ m, i = .init m ∧ s.inited = false) ∨ (∃ len, i = .enqueue len) ∨ ∃ m, i = .read m := by
  cases exec_effect h with
  | initialised m hu => exact .inr (.inl ⟨m, rfl, hu⟩)
  | nothingToCopy hc => exact .inr (.inr hc)
  | kicked len => exact .inr (.inr (.inl ⟨len, rfl⟩))
  | released m => exact .inr (.inr (.inr ⟨m, rfl⟩))
  | _ => exact .inl (by simp)

theorem exec_rxBuf (h : exec i s = .next t) : t.rxBuf = s.rxBuf := by cases exec_effect h <;> simp

theorem exec_params (h : exec i s = .next t) : t.params = s.params := by cases exec_effect h <;> simp

/-- ENQUEUE's copy-in is the one write of a buffer that the block makes (spec/10_state.md R22, R23). -/
theorem exec_txBuf (h : exec i s = .next t) :
    t.txBuf = s.txBuf ∨ ∃ len v, i = .enqueue len ∧ s.appSeq = .enqueue .e2 v ∧
      t.txBuf = ringWrite s.txBuf v.t.toNat s.params.txCap (v.src.take v.n.toNat) := by
  cases exec_effect h with
  | copiedIn len v hq => exact .inr ⟨len, v, rfl, hq, rfl⟩
  | _ => exact .inl (by simp)

/-- The slots that an ENQUEUE copies into lie past the queued bytes, so no committed byte is among them (spec/10_state.md R40 (e)). -/
theorem copyIn_leaves_run {p : Params} {head tail len : Idx} {n k i : Nat} (h : TxOk p head tail true len)
    (hn : n ≤ txFree p head tail) (hk : k < len.toNat) (hi : i < n) : head.toNat + k ≠ ringAdd tail.toNat i p.txCap := by
  obtain ⟨-, hused, hend⟩ := h.running rfl
  have hfree := txUsed_add_txFree h.head_lt h.tail_lt
  unfold txUsed at *
  intro he
  have hfar : ringDist head.toNat (ringAdd tail.toNat i p.txCap) p.txCap = ringDist head.toNat tail.toNat p.txCap + i :=
    ringDist_add_right h.head_lt h.tail_lt (by omega)
  have hnear : ringDist head.toNat (head.toNat + k) p.txCap = k := by simp [ringDist]
  rw [← he, hnear] at hfar
  omega

end Sys2Proof.Machine

namespace Sys2Proof.Proofs

open Sys2Proof.Machine

/-- Settles O42, one register at a time. -/
theorem singleWriterTable : Obligations.SingleWriterTable := fun _ _ _ h =>
  ⟨(exec_txHead h).resolve_left, (exec_txTail h).resolve_left, fun hne => (exec_txPair h).resolve_left (not_and_or.2 hne),
    (exec_rxHead h).resolve_left, (exec_rxTail h).resolve_left, fun hne => (exec_rxGeometry h).resolve_left (not_and_or.2 hne),
    (exec_inited h).resolve_left, (exec_caps h).resolve_left, (exec_flags h).resolve_left⟩

/-- Settles O43. -/
theorem buffersHaveOneWriter : Obligations.BuffersHaveOneWriter := fun i s t h => by
  refine ⟨exec_rxBuf h, exec_params h, fun hne => ?_⟩
  obtain ⟨len, v, hi, hq, -⟩ := (exec_txBuf h).resolve_left hne
  exact ⟨len, v, hi, hq⟩

/-- Settles O44: an IRQ operation answers, refreshes, rearms or credits, and none of these touches what is APP's. -/
theorem irqStepsLeaveAppAlone : Obligations.IrqStepsLeaveAppAlone := by
  intro i s t hp h
  cases exec_effect h with
  | answeredApp v ha => rw [ha] at hp; cases hp
  | nothingToCopy hc => obtain ⟨_, rfl⟩ | ⟨_, rfl⟩ := hc <;> cases hp
  | answeredIrq | refreshed | rearmed | credited => simp
  | _ => cases hp

/-- Settles O45: only a copy-in writes `TXBUF`, and it writes free slots. -/
theorem committedRunIsNotWritten : Obligations.CommittedRunIsNotWritten := by
  intro i s t h hi hr hx k hk
  obtain e | ⟨len, v, -, hq, e⟩ := exec_txBuf hx
  · rw [e]
  · have htx : TxOk s.params s.txHead s.txTail true s.txLen := hr ▸ h.sound.tx hi
    have hseq := h.seq
    rw [SeqOk, hq] at hseq
    obtain ⟨-, -, -, ht, hf⟩ := hseq
    have hfree := txUsed_add_txFree htx.head_lt htx.tail_lt
    have hlen : (v.src.take v.n.toNat).length ≤ v.n.toNat := List.length_take_le ..
    rw [e, ht]
    refine readByte_ringWrite_out htx.tail_lt (by omega) fun j hj => ?_
    exact copyIn_leaves_run htx hf hk (hj.trans_le hlen)

end Sys2Proof.Proofs

/-! The block before INIT (spec/10_state.md R43), the moves that have no step, and the reset state. -/

namespace Sys2Proof.Machine

variable {s t : State}

/-- Uninitialised, every operation but INIT answers `NotInitialized` and does nothing (spec/60_exceptions.md R244). -/
theorem exec_uninit {i : Instr} (hu : s.inited = false) (hi : ∀ m, i ≠ .init m) (hq : i.port = .app → s.appSeq = .idle) :
    exec i s = .next (s.answer i.port (codeWord .notInitialized)) := by
  cases i with
  | init m => exact absurd rfl (hi m)
  | enqueue | read | flush => simp [exec, execEnqueue, execRead, execFlush, hq rfl, hu, Instr.port]
  | getFlags | cont | abortTx | teardown =>
    simp [exec, execGetFlags, execCont, execAbortTx, execTeardown, hq rfl, hu, Instr.port]
  | txComplete | rxHalf | rxComplete | idleLine =>
    simp [exec, execTxComplete, execRxHalf, execRxComplete, execIdleLine, hu, Instr.port]

/-- INIT on an Uninitialised block: its two failures and its success (spec/42_device_lifecycle.md R181). -/
theorem initBody_uninit (m : BitVec 6) (hu : s.inited = false) : initBody m s =
    if !suppliesMandatory s.params m then s.answerApp (codeWord .invalidArgument) []
    else if isErr s.choice.resp then (capStartRx 0#24 (idxOf s.params.rxCap) s).2.answerApp s.choice.resp []
    else ((capStartRx 0#24 (idxOf s.params.rxCap) s).2.zeroed m).answerApp (codeWord .ok) [] := by
  rw [initBody, if_neg (by simp [hu])]
  rfl

/-- The two states give the same to everyone outside the block. -/
structure SameOutside (s t : State) : Prop where
  out : s.out = t.out
  calls : s.calls = t.calls
  env : s.env = t.env
  inited : s.inited = t.inited
  params : s.params = t.params
  appSeq : s.appSeq = t.appSeq
  script : s.script = t.script
  freeCtr : s.freeCtr = t.freeCtr

/-- The registers of the two states agree. -/
structure SameRegisters (s t : State) : Prop where
  txHead : s.txHead = t.txHead
  txTail : s.txTail = t.txTail
  txRun : s.txRun = t.txRun
  txLen : s.txLen = t.txLen
  rxHead : s.rxHead = t.rxHead
  rxTail : s.rxTail = t.rxTail
  rxOrg : s.rxOrg = t.rxOrg
  rxSize : s.rxSize = t.rxSize
  caps : s.caps = t.caps
  flags : s.flags = t.flags

theorem sameBeforeInit_iff : SameBeforeInit s t ↔ s.inited = false ∧ SameOutside s t :=
  ⟨fun ⟨⟨hs, ht⟩, hp, hq, he, ho, hc, hr, hf⟩ => ⟨hs, ho, hc, he, hs.trans ht.symm, hp, hq, hr, hf⟩,
    fun ⟨hs, ho, hc, he, hi, hp, hq, hr, hf⟩ => ⟨⟨hs, hi ▸ hs⟩, hp, hq, he, ho, hc, hr, hf⟩⟩

namespace SameOutside

theorem choice (h : SameOutside s t) : s.choice = t.choice := by
  unfold State.choice
  rw [h.script, h.freeCtr]

theorem answer (h : SameOutside s t) (p : Port) (v : Word) : SameOutside (s.answer p v) (t.answer p v) := by
  cases p
  · exact { h with out := by simp [State.answer, h.out], appSeq := rfl }
  · exact { h with out := by simp [State.answer, h.out] }

theorem capStartRx (h : SameOutside s t) (off len : Idx) : SameOutside (capStartRx off len s).2 (capStartRx off len t).2 :=
  { h with
    calls := by simp [h.calls, h.choice]
    env := by simp [capStartRx_env, h.env, h.choice]
    script := by simp [h.script]
    freeCtr := by simp [h.freeCtr] }

theorem zeroed (h : SameOutside s t) (m : BitVec 6) : SameOutside (s.zeroed m) (t.zeroed m) := { h with inited := rfl }

/-- After INIT the registers are what INIT wrote, whatever they were. -/
theorem registers_zeroed (h : SameOutside s t) (m : BitVec 6) : SameRegisters (s.zeroed m) (t.zeroed m) := by
  constructor <;> simp [h.params]

theorem initBody (h : SameOutside s t) (hu : s.inited = false) (m : BitVec 6) : SameOutside (initBody m s) (initBody m t) ∧
    ((Machine.initBody m s).inited = true → SameRegisters (Machine.initBody m s) (Machine.initBody m t)) := by
  rw [initBody_uninit m hu, initBody_uninit m (h.inited ▸ hu), ← h.params, ← h.choice]
  have hstart := h.capStartRx 0#24 (idxOf s.params.rxCap)
  split
  · exact ⟨h.answer .app _, fun hi => by simp [hu] at hi⟩
  · split
    · exact ⟨hstart.answer .app _, fun hi => by simp [hu] at hi⟩
    · exact ⟨(hstart.zeroed m).answer .app _, fun _ => { hstart.registers_zeroed m with }⟩

/-- An operation that finds the block Uninitialised leaves the two states alike, and the registers too once INIT has succeeded. -/
theorem exec_uninit {i : Instr} (h : SameOutside s t) (hu : s.inited = false) (hq : i.port = .app → s.appSeq = .idle)
    {s' : State} (hx : exec i s = .next s') :
    ∃ t', exec i t = .next t' ∧ SameOutside s' t' ∧ (s'.inited = true → SameRegisters s' t') := by
  have hut : t.inited = false := h.inited ▸ hu
  have hqt : i.port = .app → t.appSeq = .idle := fun hp => h.appSeq ▸ hq hp
  by_cases hi : ∃ m, i = .init m
  · obtain ⟨m, rfl⟩ := hi
    rw [exec, execInit, whenIdle_idle (hq rfl)] at hx
    cases hx
    exact ⟨_, by rw [exec, execInit, whenIdle_idle (hqt rfl)], h.initBody hu m⟩
  · have hi : ∀ m, i ≠ .init m := fun m e => hi ⟨m, e⟩
    rw [Machine.exec_uninit hu hi hq] at hx
    cases hx
    refine ⟨_, Machine.exec_uninit hut hi hqt, h.answer _ _, fun hs => ?_⟩
    cases i <;> simp [State.answer, Instr.port, hu] at hs

end SameOutside

theorem step_inputs {inp : Input} {rest : List Input} (h : s.inputs = inp :: rest) :
    step s = runInput inp { s with inputs := rest } := by simp [step, h]

/-- An APP operation that is not the one in progress has no step (spec/70_reset_and_hazards.md R284). -/
theorem exec_busy {i : Instr} (hp : i.port = .app) (hq : s.appSeq ≠ .idle)
    (he : ∀ len l v, i = .enqueue len → s.appSeq ≠ .enqueue l v)
    (hr : ∀ m, i = .read m → (∀ k, s.appSeq ≠ .readR2 k) ∧ (∀ k h n, s.appSeq ≠ .readR3 k h n) ∧
      ∀ k h n d, s.appSeq ≠ .readR4 k h n d)
    (hf : ∀ m, i = .flush m → (∀ k, s.appSeq ≠ .flushF2 k) ∧ ∀ k t0, s.appSeq ≠ .flushF3 k t0) :
    exec i s = .fault .appBusy := by
  cases i with
  | init | getFlags | cont | abortTx | teardown => exact whenIdle_busy hq
  | enqueue len =>
    simp only [exec, execEnqueue]
    cases hs : s.appSeq with
    | idle => exact absurd hs hq
    | enqueue l v => exact absurd hs (he len l v rfl)
    | _ => rfl
  | read m =>
    obtain ⟨h2, h3, h4⟩ := hr m rfl
    simp only [exec, execRead]
    cases hs : s.appSeq with
    | idle => exact absurd hs hq
    | readR2 => exact absurd hs (h2 _)
    | readR3 => exact absurd hs (h3 _ _ _)
    | readR4 => exact absurd hs (h4 _ _ _ _)
    | _ => rfl
  | flush m =>
    obtain ⟨h2, h3⟩ := hf m rfl
    simp only [exec, execFlush]
    cases hs : s.appSeq with
    | idle => exact absurd hs hq
    | flushF2 => exact absurd hs (h2 _)
    | flushF3 => exact absurd hs (h3 _ _)
    | _ => rfl
  | txComplete | rxHalf | rxComplete | idleLine => cases hp

theorem txCoupled_resetWith (p : Params) : TxCoupled (State.resetWith p) := .of_quiet (fun _ => rfl) rfl rfl

/-- Uninitialised and with no operation in progress there is nothing to be exact about. -/
theorem rxExact_resetWith (p : Params) : RxExact (State.resetWith p) :=
  ⟨fun hi => (by cases hi), fun _ _ _ hq => (by cases hq), fun _ _ _ _ hq => (by cases hq)⟩

theorem config_wellFormed : Config.params.WellFormed := by
  have htx := Config.txCapAboveTwo.isLt
  have hrx := Config.rxCapAboveTwo.isLt
  simp only [Params.WellFormed, Config.params]
  omega

end Sys2Proof.Machine

namespace Sys2Proof.Proofs

open Sys2Proof.Machine

/-- Settles O12: what an operation does before INIT does not read the registers, and INIT overwrites them. -/
theorem stateBeforeInitIsUnobservable : Obligations.StateBeforeInitIsUnobservable := by
  intro i s s' t h hq hx
  obtain ⟨hu, hsame⟩ := sameBeforeInit_iff.1 h
  obtain ⟨t', hx', ho, hr⟩ := hsame.exec_uninit hu hq hx
  refine ⟨t', hx', ho.out, ho.calls, ho.env, ho.inited, ho.params, ho.appSeq, ho.script, ho.freeCtr,
    fun hu => sameBeforeInit_iff.2 ⟨hu, ho⟩, fun hi => ?_⟩
  obtain ⟨h1, h2, h3, h4, h5, h6, h7, h8, h9, h10⟩ := hr hi
  exact ⟨h1, h2, h3, h4, h5, h6, h7, h8, h9, h10⟩

/-- Settles O6: each guard in turn. -/
theorem movesWithoutAStepStop : Obligations.MovesWithoutAStepStop := by
  refine ⟨fun s cw src rest h hq => ?_, fun i s hp hq he hr hf => exec_busy hp hq he hr hf, fun s rest h hq => ?_,
    fun s rest e h hp => ?_, fun s rest h hr => ?_, fun s rest h hb => ?_, fun len s hq hi hl => ?_⟩
  · rw [step_inputs h]
    exact whenIdle_busy hq
  · simp [step_inputs h, runInput, appStep, hq, AppSeq.current?]
  · simp [step_inputs h, runInput, takeEvent, hp]
  · simp [step_inputs h, runInput, envAct, envTxDone, hr]
  · simp [step_inputs h, runInput, envAct, envHalf, hb]
  · simp [exec, execEnqueue, enqueueE1, hq, hi, hl]

/-- Settles O50: nothing is Initialised after reset, and the parameters of `State.reset` are in range by their types. -/
theorem resetMeetsTheInvariants : Obligations.ResetMeetsTheInvariants :=
  ⟨fun p hp => ⟨inv_resetWith hp, txCoupled_resetWith p, rxExact_resetWith p⟩, inv_resetWith config_wellFormed,
    txCoupled_resetWith _, rxExact_resetWith _⟩

end Sys2Proof.Proofs

/-! Every run and batch that the block starts is in range (spec/20_memory.md R72, spec/43_capability_calls.md R211, R214). -/

namespace Sys2Proof.Machine

variable {s t : State} {i : Instr}

/-- When a call on the way to the state `t` is in range: a run that it starts is non-empty, inside `TXBUF`, at the head, and the
committed run if it was accepted; a batch that it starts covers `RXBUF` from its first byte; other calls always are. -/
structure CallInRange (p : Params) (t : State) (c : CapCall) : Prop where
  run : c.cap = .startTx → 1 ≤ c.len.toNat ∧ c.off.toNat + c.len.toNat ≤ p.txCap ∧ c.off = t.txHead ∧
    (isErr c.resp = false → t.txRun = true ∧ t.txLen = c.len)
  batch : c.cap = .startRx → c.off = 0#24 ∧ c.len.toNat = p.rxCap

theorem CallInRange.of_noStart {p : Params} {c : CapCall} (htx : c.cap ≠ .startTx) (hrx : c.cap ≠ .startRx) : CallInRange p t c :=
  ⟨fun h => absurd h htx, fun h => absurd h hrx⟩

theorem CallInRange.of_wholeBuffer {p : Params} (hp : p.WellFormed) (r : Word) :
    CallInRange p t ⟨.startRx, 0#24, idxOf p.rxCap, r⟩ :=
  ⟨nofun, fun _ => ⟨rfl, idxOf_rxCap_toNat hp⟩⟩

/-- Starting the longest run from the head is in range where a run that ENV accepts is the committed one. -/
theorem CallInRange.of_longestRun {p : Params} {tail len : Idx} {b : Bool} {r : Word} (h : TxOk p t.txHead tail b len)
    (hp : p.WellFormed) (hne : t.txHead ≠ tail)
    (hr : isErr r = false → t.txRun = true ∧ t.txLen = idxOf (runLen p t.txHead tail)) :
    CallInRange p t ⟨.startTx, t.txHead, idxOf (runLen p t.txHead tail), r⟩ := by
  obtain ⟨h1, -, hend⟩ := (h.start hp hne).running rfl
  exact ⟨fun _ => ⟨h1, hend, rfl, hr⟩, nofun⟩

/-- The calls made from `s` to `t` are all in range. -/
def CallsInRange (s t : State) : Prop := ∃ new, NewCalls s t new ∧ ∀ c ∈ new, CallInRange s.params t c

namespace CallsInRange

theorem of_noCall (h : t.calls = s.calls) : CallsInRange s t := ⟨[], h, by simp⟩

theorem of_call {c : CapCall} (h : t.calls = c :: s.calls) (hc : CallInRange s.params t c) : CallsInRange s t :=
  ⟨[c], h, by simpa using hc⟩

theorem of_calls {c d : CapCall} (h : t.calls = c :: d :: s.calls) (hc : CallInRange s.params t c)
    (hd : CallInRange s.params t d) : CallsInRange s t :=
  ⟨[c, d], h, by simpa using ⟨hc, hd⟩⟩

/-- What is said of a step's calls is about four fields of its end only. -/
theorem of_eq {u : State} (h : CallsInRange s t)
    (e : u.calls = t.calls ∧ u.txHead = t.txHead ∧ u.txRun = t.txRun ∧ u.txLen = t.txLen) : CallsInRange s u := by
  obtain ⟨new, hn, hc⟩ := h
  obtain ⟨ec, eh, er, el⟩ := e
  refine ⟨new, ec.trans hn, fun c hm => ⟨?_, (hc c hm).batch⟩⟩
  rw [eh, er, el]
  exact (hc c hm).run

/-- ContinueAction starts the longest run from the head or nothing (spec/40_tx_engine.md R123, R124). -/
theorem continueAction (h : Sound s) (hi : s.inited = true) : CallsInRange s (continueAction s).2 := by
  rcases continueAction_cases s with ⟨-, e⟩ | ⟨-, hne, he, e⟩ | ⟨-, hne, -, e⟩ <;> rw [e]
  · exact .of_noCall rfl
  · exact .of_call rfl (.of_longestRun (h.tx hi) h.params hne fun h0 => absurd (he.symm.trans h0) (by decide))
  · exact .of_call rfl (.of_longestRun (h.tx hi) h.params hne fun _ => ⟨rfl, rfl⟩)

end CallsInRange

/-- A batch covers the whole buffer, so the next one starts where it did, at 0 (spec/41_rx_engine.md R158). -/
theorem Sound.nextOrg_zero (h : Sound s) (hi : s.inited = true) :
    idxOf (ringAdd s.rxOrg.toNat s.rxSize.toNat s.params.rxCap) = 0#24 := by
  rw [(h.rx hi).org_zero, (h.rx hi).size_cap]
  simp [ringAdd, idxOf]

/-- The rearm makes one call, a start of the whole buffer, whatever ENV answers (spec/41_rx_engine.md R158, R159). -/
theorem rearm_calls (h : Sound s) (hi : s.inited = true) :
    (rearm s).2.calls = ⟨.startRx, 0#24, idxOf s.params.rxCap, s.choice.resp⟩ :: s.calls := by
  rcases rearm_cases s with ⟨-, e⟩ | ⟨-, e⟩ <;> rw [e] <;> simp [h.nextOrg_zero hi]

/-- RX_COMPLETE at a batch boundary: the question for what remains, then the start of the next batch. -/
theorem callsInRange_rearmed (h : Sound s) (hi : s.inited = true) (v : Word) :
    CallsInRange s ((rearm ((capRxRemaining s).2.refreshTail (capRxRemaining s).1)).2.answerIrq v) := by
  have hcalls := rearm_calls (h.capRxRemaining.refreshTail (capRxRemaining s).1) (by simpa using hi)
  simp only [State.refreshTail_params, State.refreshTail_calls, capRxRemaining_params, capRxRemaining_calls] at hcalls
  exact .of_calls hcalls (.of_wholeBuffer h.params _) (.of_noStart nofun nofun)

/-- Every operation makes its calls in range. -/
theorem exec_callsInRange (h : Inv s) (hx : exec i s = .next t) : CallsInRange s t := by
  have hs := h.sound
  cases exec_effect hx with
  | initFailed | initialised => exact .of_call (by simp) (.of_wholeBuffer hs.params s.choice.resp)
  | continued hi => exact (CallsInRange.continueAction hs hi).of_eq (by simp)
  | kicked len v hq | rolledBack len v hq =>
    exact (CallsInRange.continueAction hs (h.seqInited (by simp [hq]))).of_eq (by simp)
  | credited hi =>
    have hc : CallsInRange s (continueAction s.creditRun).2 := .continueAction hs.creditRun hi
    exact hc.of_eq (by simp)
  | rearmed hi => exact callsInRange_rearmed hs hi _
  | refreshed | readRefreshed => exact .of_call (capRxRemaining_calls s) (.of_noStart nofun nofun)
  | aborted => exact .of_call (capAbortTx_calls s.leaveRunning) (.of_noStart nofun nofun)
  | tornDown => exact .of_calls rfl (.of_noStart nofun nofun) (.of_noStart nofun nofun)
  | clockRead | timedOut => exact .of_call (capNowMillis_calls s) (.of_noStart nofun nofun)
  | _ => exact .of_noCall (by simp)

end Sys2Proof.Machine

namespace Sys2Proof.Proofs

open Sys2Proof.Machine

/-- Settles O46: the two ends of a step determine its calls, and an operation makes only calls in range. -/
theorem startsAreInRange : Obligations.StartsAreInRange := by
  intro i s t new c h hx hn hc
  obtain ⟨made, hm, hr⟩ := exec_callsInRange h hx
  obtain rfl : new = made := List.append_cancel_right (hn.symm.trans hm)
  exact ⟨(hr c hc).run, (hr c hc).batch⟩

end Sys2Proof.Proofs

/-! The command encoding (spec/30_encoding.md): decoding undoes encoding and encoding undoes decoding, row by row of
R93's table. -/

namespace Sys2Proof

@[simp] theorem opcOf_encode (i : Instr) : opcOf (encode i) = i.opc := opcOf_append ..

@[simp] theorem argOf_encode (i : Instr) : argOf (encode i) = i.arg := argOf_append ..

/-- A word decodes to the operation of its row when it stands on its port with the reserved bits of `ARG` clear
(spec/30_encoding.md R95). -/
theorem decode_eq_ok_iff {p : Port} {cw : Word} {i : Instr} : decode p cw = .ok i ↔
    ∃ reserved, rowOf (opcOf cw) (argOf cw) = some (reserved, i) ∧ portOf cw = p ∧ argOf cw &&& reserved = 0#24 := by
  unfold decode
  cases rowOf (opcOf cw) (argOf cw) with
  | none => simp
  | some row =>
    obtain ⟨reserved, j⟩ := row
    by_cases hp : portOf cw = p <;> by_cases h0 : argOf cw &&& reserved = 0#24 <;> simp [hp, h0, and_comm]

theorem decode_notSupported {p : Port} {cw : Word} (h : rowOf (opcOf cw) (argOf cw) = none ∨ portOf cw ≠ p) :
    decode p cw = .notSupported := by
  unfold decode
  cases hrow : rowOf (opcOf cw) (argOf cw) with
  | none => rfl
  | some row => exact if_pos (h.resolve_left (by simp [hrow]))

theorem decode_invalidArgument {p : Port} {cw : Word} {reserved : Idx} {i : Instr}
    (hrow : rowOf (opcOf cw) (argOf cw) = some (reserved, i)) (hp : portOf cw = p) (h0 : argOf cw &&& reserved ≠ 0#24) :
    decode p cw = .invalidArgument := by
  simp [decode, hrow, hp, h0]

/-- The operand of INIT is `ARG[5:0]`, read back from a zero-extended mask (spec/30_encoding.md R92). -/
theorem extractLsb'_setWidth_capMask (m : BitVec 6) : (m.setWidth 24).extractLsb' 0 6 = m := by
  rw [← BitVec.setWidth_eq_extractLsb' (by decide), BitVec.setWidth_setWidth_of_le m (by decide), BitVec.setWidth_eq]

/-- INIT's reserved bits, `ARG[23:6]`, are clear exactly when `ARG` is below 64 (spec/30_encoding.md R94). -/
theorem and_initReserved_eq_zero (arg : Idx) : arg &&& 0xFFFFC0#24 = 0#24 ↔ arg.toNat < 64 := by
  have hmask : (0xFFFFC0#24 : Idx) = BitVec.allOnes 24 <<< 6 := by decide
  have := arg.isLt
  rw [hmask, ← BitVec.shiftLeft_ushiftRight, BitVec.toNat_eq]
  simp only [BitVec.toNat_shiftLeft, BitVec.toNat_ushiftRight, Nat.shiftLeft_eq, Nat.shiftRight_eq_div_pow, BitVec.toNat_ofNat]
  omega

/-- Of a row that takes no argument every bit of `ARG` is reserved (spec/30_encoding.md R93). -/
theorem and_allReserved (arg : Idx) : arg &&& 0xFFFFFF#24 = arg := BitVec.and_allOnes

/-- The row that an operation's own `OPC` selects gives the operation back, with the reserved bits of its `ARG` clear. -/
theorem rowOf_opc_arg (i : Instr) : ∃ reserved, rowOf i.opc i.arg = some (reserved, i) ∧ i.arg &&& reserved = 0#24 := by
  cases i with
  | init m =>
    refine ⟨0xFFFFC0#24, by simp [rowOf, Instr.opc, Instr.arg, extractLsb'_setWidth_capMask], ?_⟩
    rw [and_initReserved_eq_zero, Instr.arg, BitVec.toNat_setWidth_of_le (by decide)]
    exact m.isLt
  | enqueue | read | flush => exact ⟨0#24, rfl, BitVec.and_zero⟩
  | getFlags | cont | abortTx | teardown | txComplete | rxHalf | rxComplete | idleLine =>
    exact ⟨0xFFFFFF#24, rfl, BitVec.zero_and⟩

/-- Decoding on the port that an operation's word names undoes encoding. -/
theorem decode_encode_portOf (i : Instr) : decode (portOf (encode i)) (encode i) = .ok i := by
  obtain ⟨reserved, hrow, h0⟩ := rowOf_opc_arg i
  exact decode_eq_ok_iff.2 ⟨reserved, by simpa using hrow, rfl, by simpa using h0⟩

/-- The `PORT` bit of an operation's word names the operation's port. -/
@[simp] theorem portOf_encode (i : Instr) : portOf (encode i) = i.port := (Machine.decode_port (decode_encode_portOf i)).symm

theorem decode_encode (i : Instr) : decode i.port (encode i) = .ok i := portOf_encode i ▸ decode_encode_portOf i

/-- Assembling the operation of a row puts `OPC` and `ARG` back where they were read. -/
theorem encode_of_rowOf {opc : BitVec 8} {arg reserved : Idx} {i : Instr} (h : rowOf opc arg = some (reserved, i))
    (h0 : arg &&& reserved = 0#24) : encode i = opc ++ arg := by
  have fields (ho : i.opc.toNat = opc.toNat) (ha : i.arg = arg) : encode i = opc ++ arg := by
    rw [encode, BitVec.eq_of_toNat_eq ho, ha]
  unfold rowOf at h
  split at h <;> cases h <;> refine fields (by simp [Instr.opc, *]) ?_
  case h_1 =>
    rw [and_initReserved_eq_zero] at h0
    apply BitVec.eq_of_toNat_eq
    simp only [Instr.arg, BitVec.toNat_setWidth, BitVec.extractLsb'_toNat, Nat.shiftRight_zero]
    omega
  case h_2 | h_3 | h_4 => rfl
  all_goals exact h0.symm.trans (and_allReserved arg)

/-- The twelve codes of spec/30_encoding.md R93. -/
theorem rowOf_eq_none_iff (opc : BitVec 8) (arg : Idx) : rowOf opc arg = none ↔
    ¬ ((1 ≤ opc.toNat ∧ opc.toNat ≤ 8) ∨ (0x81 ≤ opc.toNat ∧ opc.toNat ≤ 0x84)) := by
  unfold rowOf
  split <;> simp only [reduceCtorEq, true_iff, false_iff, not_not]
  case h_13 =>
    simp only [imp_false] at *
    omega
  all_goals omega

/-- Which rows have a bit of `ARG` that is 1 where spec/30_encoding.md R93 gives it as 0. -/
theorem reserved_ne_zero_iff {opc : BitVec 8} {arg reserved : Idx} {i : Instr} (h : rowOf opc arg = some (reserved, i)) :
    arg &&& reserved ≠ 0#24 ↔ (opc.toNat = 1 ∧ 64 ≤ arg.toNat) ∨
      ((5 ≤ opc.toNat ∧ opc.toNat ≤ 8) ∧ arg.toNat ≠ 0) ∨ (0x81 ≤ opc.toNat ∧ arg.toNat ≠ 0) := by
  have hzero : arg = 0#24 ↔ arg.toNat = 0 := BitVec.toNat_eq
  unfold rowOf at h
  split at h <;> cases h
  case h_1 =>
    rw [ne_eq, and_initReserved_eq_zero]
    omega
  case h_2 | h_3 | h_4 =>
    simp only [BitVec.and_zero, ne_eq, not_true_eq_false, false_iff]
    omega
  all_goals
    rw [and_allReserved, ne_eq, hzero]
    omega

/-- The `PORT` bit names the IRQ port exactly from `OPC` 0x80 on (spec/30_encoding.md R91). -/
theorem portOf_eq_iff {p : Port} {cw : Word} : portOf cw = p ↔ (p = .irq ↔ 0x80 ≤ cw.toNat / 2 ^ 24) := by
  rw [portOf_eq, opcOf_toNat]
  cases p <;> simp

end Sys2Proof

/-! A word at a port (spec/30_encoding.md R95) and the results that an operation gives (R90). -/

namespace Sys2Proof.Machine

variable {s : State} {i : Instr}

@[simp] theorem State.withCommand_appSeq (p : Port) (src : List Byte) (rest : List Input) (s : State) :
    (s.withCommand p src rest).appSeq = s.appSeq := by cases p <;> rfl

@[simp] theorem State.withCommand_out (p : Port) (src : List Byte) (rest : List Input) (s : State) :
    (s.withCommand p src rest).out = s.out := by cases p <;> rfl

/-- A result given where APP has no operation in progress changes nothing else (spec/30_encoding.md R95). -/
theorem answer_of_idle {p : Port} (hq : p = .app → s.appSeq = .idle) (v : Word) :
    s.answer p v = { s with out := ⟨p, v, []⟩ :: s.out } := by
  cases p with
  | app => rw [State.answer, State.answerApp, ← hq rfl]
  | irq => rfl

/-- A step whose next move presents a command word runs the word at its port (spec/60_exceptions.md R250). -/
theorem step_command {p : Port} {cw : Word} {src : List Byte} {rest : List Input}
    (hin : s.inputs = Input.command p cw src :: rest) (hq : p = .app → s.appSeq = .idle) :
    step s = runWord p cw (s.withCommand p src rest) := by
  rw [step_inputs hin]
  cases p with
  | app => exact whenIdle_idle (hq rfl)
  | irq => rfl

theorem runWord_notSupported {p : Port} {cw : Word} (hd : decode p cw = .notSupported) (hq : p = .app → s.appSeq = .idle) :
    runWord p cw s = .next { s with out := ⟨p, 0xFFFFFFFA#32, []⟩ :: s.out } := by
  rw [runWord, hd]
  exact congrArg _ (answer_of_idle hq _)

theorem runWord_invalidArgument {p : Port} {cw : Word} (hd : decode p cw = .invalidArgument) (hq : p = .app → s.appSeq = .idle) :
    runWord p cw s = .next { s with out := ⟨p, 0xFFFFFFFD#32, []⟩ :: s.out } := by
  rw [runWord, hd]
  exact congrArg _ (answer_of_idle hq _)

theorem runWord_ok {p : Port} {cw : Word} (hd : decode p cw = .ok i) : runWord p cw s = exec i s := by
  rw [runWord, hd]

end Sys2Proof.Machine

namespace Sys2Proof.Proofs

open Sys2Proof.Machine

/-- Settles O1: encoding puts `OPC` and `ARG` where decoding reads them, and the top bit of `OPC` names one port only. -/
theorem decodeOfEncodeIsTheInstruction : Obligations.DecodeOfEncodeIsTheInstruction := fun i =>
  ⟨decode_encode i, fun _ hp => decode_notSupported (.inr (portOf_encode i ▸ hp.symm))⟩

/-- Settles O2: the row that a word selects is put back together from its two fields. -/
theorem decodedWordIsItsEncoding : Obligations.DecodedWordIsItsEncoding := by
  intro p cw i h
  obtain ⟨reserved, hrow, hp, h0⟩ := decode_eq_ok_iff.1 h
  exact ⟨(encode_of_rowOf hrow h0).trans (opcOf_append_argOf cw), decode_port h, hp⟩

/-- Settles O3: the two checks of `decode` in their order, said of the numbers in the word's two fields. -/
theorem decodingIsTotalAndOrdered : Obligations.DecodingIsTotalAndOrdered := by
  intro s p cw src rest hin hq opc arg known onItsPort reserved
  have hq' : p = .app → (s.withCommand p src rest).appSeq = .idle := by simpa using hq
  have hport : portOf cw = p ↔ onItsPort := portOf_eq_iff
  have hunknown : rowOf (opcOf cw) (argOf cw) = none ↔ ¬ known := by
    simpa only [opcOf_toNat] using rowOf_eq_none_iff (opcOf cw) (argOf cw)
  have hsome (hk : known) : ∃ row, rowOf (opcOf cw) (argOf cw) = some row :=
    Option.ne_none_iff_exists'.1 fun hnone => hunknown.1 hnone hk
  have hreserved {r : Idx} {i : Instr} (hrow : rowOf (opcOf cw) (argOf cw) = some (r, i)) :
      argOf cw &&& r ≠ 0#24 ↔ reserved := by
    simpa only [opcOf_toNat, argOf_toNat] using reserved_ne_zero_iff hrow
  rw [step_command hin hq, ← State.withCommand_out p src rest s]
  refine ⟨fun h => ?_, fun ⟨hk, hp, hr⟩ => ?_, fun ⟨hk, hp, hr⟩ => ?_⟩
  · exact runWord_notSupported (decode_notSupported (h.imp hunknown.2 (mt hport.1))) hq'
  · obtain ⟨⟨r, i⟩, hrow⟩ := hsome hk
    exact runWord_invalidArgument (decode_invalidArgument hrow (hport.2 hp) ((hreserved hrow).2 hr)) hq'
  · obtain ⟨⟨r, i⟩, hrow⟩ := hsome hk
    have hd : decode p cw = .ok i := decode_eq_ok_iff.2 ⟨r, hrow, hport.2 hp, not_not.1 (mt (hreserved hrow).1 hr)⟩
    obtain ⟨he, hip, -⟩ := decodedWordIsItsEncoding p cw i hd
    exact ⟨i, he, hip, runWord_ok hd⟩

/-- Settles O4: each word of the table is the encoding of its operation. -/
theorem tableWordsDecode : Obligations.TableWordsDecode :=
  ⟨decode_encode (.init 0x3F#6), decode_encode (.enqueue 8#24), decode_encode (.read 0xFFFFFF#24), decode_encode (.flush 5#24),
    decode_encode .getFlags, decode_encode .cont, decode_encode .abortTx, decode_encode .teardown, decode_encode .txComplete,
    decode_encode .rxHalf, decode_encode .rxComplete, decode_encode .idleLine⟩

/-- Settles O8: what each effect adds to the results, and where APP then stands. -/
theorem oneResultPerCommand : Obligations.OneResultPerCommand := by
  intro i s t h
  cases exec_effect h with
  | admitted | copiedIn | published | readRefreshed | counted | copiedOut | flushBegun | clockRead =>
    exact .inl ⟨by simp, by simp [AppSeq.current?], rfl⟩
  | answeredApp v hp | answeredIrq v hp => exact .inr (by simp [hp])
  | refreshed hi => exact .inr (by obtain rfl | rfl | rfl := hi <;> simp [Instr.port])
  | nothingToCopy hi => exact .inr (by obtain ⟨_, rfl⟩ | ⟨_, rfl⟩ := hi <;> simp [Instr.port])
  | _ => exact .inr (by simp [Instr.port])

end Sys2Proof.Proofs

/-! The transmit engine (spec/40_tx_engine.md R120 to R128): what each operation and ENQUEUE's steps answer, case by case. -/

namespace Sys2Proof.Machine

variable {s t : State}

/-- Before INIT an operation only gives its result (spec/60_exceptions.md R244). -/
theorem exec_before_init {i : Instr} (hu : s.inited = false) (hi : ∀ m, i ≠ .init m) (hq : i.port = .app → s.appSeq = .idle) :
    exec i s = .next { s with out := ⟨i.port, 0xFFFFFFFB#32, []⟩ :: s.out } := by
  rw [exec_uninit hu hi hq, answer_of_idle hq]
  rfl

/-! ContinueAction and CONTINUE (spec/40_tx_engine.md R123, R124) -/

theorem continueAction_noop (h : s.txRun = true ∨ s.txHead = s.txTail) : continueAction s = (codeWord .ok, s) := by
  unfold continueAction
  rcases h with h | h <;> simp [h]

theorem continueAction_submit (hr : s.txRun = false) (hne : s.txHead ≠ s.txTail) :
    continueAction s = submit s.txHead (idxOf (runLen s.params s.txHead s.txTail)) s := by
  simp [continueAction, hr, hne]

/-- Two indices that differ leave a run up to the tail or up to the end of the buffer. -/
theorem runLen_of_ne {p : Params} {h t : Idx} (hne : h ≠ t) :
    runLen p h t = if h.toNat < t.toNat then t.toNat - h.toNat else p.txCap - h.toNat := by
  rcases runLen_cases p hne with ⟨hlt, hrun, -⟩ | ⟨hgt, hrun, -⟩ <;> rw [hrun]
  · rw [if_pos hlt]
  · rw [if_neg (Nat.lt_asymm hgt)]

theorem exec_cont (hq : s.appSeq = .idle) (hi : s.inited = true) :
    exec .cont s = .next ((continueAction s).2.answerApp (continueAction s).1 []) := by
  simp [exec, execCont, hq, hi]

/-- A ContinueAction that answers `Ok` leaves nothing for another one to start. -/
theorem continueAction_settled (h : isErr (continueAction s).1 = false) :
    (continueAction s).2.txRun = true ∨ (continueAction s).2.txHead = (continueAction s).2.txTail := by
  rcases continueAction_cases s with ⟨hn, e⟩ | ⟨-, -, he, e⟩ | ⟨-, -, -, e⟩ <;> rw [e] at h ⊢
  · exact hn
  · rw [he] at h; cases h
  · exact .inl rfl

/-- A ContinueAction that answers an error leaves the engine idle (spec/40_tx_engine.md R124). -/
theorem continueAction_failed (h : isErr (continueAction s).1 = true) :
    (continueAction s).2.txRun = false ∧ (continueAction s).2.txLen = 0#24 := by
  rcases continueAction_cases s with ⟨-, e⟩ | ⟨-, -, -, e⟩ | ⟨-, -, -, e⟩ <;> rw [e] at h ⊢
  · rw [isErr_codeWord_ok] at h; cases h
  · exact ⟨rfl, rfl⟩
  · rw [isErr_codeWord_ok] at h; cases h

/-- A start that ContinueAction made and that failed leaves the engine idle, and its answer is the result. -/
theorem continueAction_failedStart {off len : Idx} {r : Word}
    (hc : (continueAction s).2.calls = ⟨.startTx, off, len, r⟩ :: s.calls) (hr : isErr r = true) :
    (continueAction s).1 = r ∧ (continueAction s).2.txRun = false ∧ (continueAction s).2.txLen = 0#24 := by
  suffices (continueAction s).1 = r from ⟨this, continueAction_failed (this ▸ hr)⟩
  rcases continueAction_cases s with ⟨-, e⟩ | ⟨-, -, -, e⟩ | ⟨-, -, he, e⟩ <;> rw [e] at hc ⊢
  · exact absurd hc.symm (List.cons_ne_self _ _)
  · exact congrArg CapCall.resp (List.head_eq_of_cons_eq hc)
  · have hresp : s.choice.resp = r := congrArg CapCall.resp (List.head_eq_of_cons_eq hc)
    rw [hresp, hr] at he
    cases he

/-- The rearm asks for a batch, whatever its geometry (spec/41_rx_engine.md R158). -/
theorem rearm_calls_startRx (s : State) : (rearm s).2.calls =
    ⟨.startRx, idxOf (ringAdd s.rxOrg.toNat s.rxSize.toNat s.params.rxCap), idxOf s.params.rxCap, s.choice.resp⟩ :: s.calls := by
  rcases rearm_cases s with ⟨-, e⟩ | ⟨-, e⟩ <;> rw [e] <;> rfl

/-! TX_COMPLETE and ABORT_TX (spec/40_tx_engine.md R125 to R127) -/

theorem exec_txComplete_idle (hi : s.inited = true) (hr : s.txRun = false) :
    exec .txComplete s = .next (s.answerIrq (codeWord .ok)) := by
  simp [exec, execTxComplete, hi, hr]

theorem exec_txComplete_running (hi : s.inited = true) (hr : s.txRun = true) :
    exec .txComplete s = .next ((continueAction s.creditRun).2.answerIrq (continueAction s.creditRun).1) := by
  simp [exec, execTxComplete, hi, hr]

theorem exec_abortTx (hq : s.appSeq = .idle) (hi : s.inited = true) :
    exec .abortTx s = .next ((capAbortTx s.leaveRunning).2.answerApp
      (if isErr (capAbortTx s.leaveRunning).1 then (capAbortTx s.leaveRunning).1 else codeWord .ok) []) := by
  simp [exec, execAbortTx, hq, hi]

/-! ENQUEUE, step by step (spec/40_tx_engine.md R120 to R122) -/

theorem exec_enqueue_none {len : Idx} (hq : s.appSeq = .idle) (hi : s.inited = true) (hl : s.appSrc.length = len.toNat)
    (hn : min len.toNat (txFree s.params s.txHead s.txTail) = 0) :
    exec (.enqueue len) s =
      .next ({ s with flags := setShort (decide (0 < len.toNat)) s.flags }.answerApp (codeWord .ok) []) := by
  simp only [exec, execEnqueue, hq, whenInited_true hi, enqueueE1, hl, hn, ne_eq, not_true_eq_false, if_false, if_true]

theorem exec_enqueue_admits {len : Idx} (hq : s.appSeq = .idle) (hi : s.inited = true) (hl : s.appSrc.length = len.toNat)
    (hn : min len.toNat (txFree s.params s.txHead s.txTail) ≠ 0) :
    exec (.enqueue len) s = .next (s.standAt
      (.enqueue .e2 ⟨len, s.appSrc, s.txTail, idxOf (min len.toNat (txFree s.params s.txHead s.txTail))⟩)) := by
  simp only [exec, execEnqueue, hq, whenInited_true hi, enqueueE1, hl, hn, ne_eq, not_true_eq_false, if_false]

theorem exec_enqueue_e2 {v : EnqueueLocals} {len : Idx} (hq : s.appSeq = .enqueue .e2 v)
    (hr : ringInRange v.t.toNat (v.src.take v.n.toNat).length s.params.txCap = true) :
    exec (.enqueue len) s = .next ({ s with
      txBuf := ringWrite s.txBuf v.t.toNat s.params.txCap (v.src.take v.n.toNat) }.standAt (.enqueue .e3 v)) := by
  simp only [exec, execEnqueue, hq, enqueueE2, hr, if_true]

theorem exec_enqueue_e3 {v : EnqueueLocals} {len : Idx} (hq : s.appSeq = .enqueue .e3 v) :
    exec (.enqueue len) s = .next (enqueueE3 v s) := by
  simp only [exec, execEnqueue, hq]

theorem exec_enqueue_e4 {v : EnqueueLocals} {len : Idx} (hq : s.appSeq = .enqueue .e4 v) :
    exec (.enqueue len) s = .next (enqueueE4 v s) := by
  simp only [exec, execEnqueue, hq]

theorem setShort_decide (p : Prop) [Decidable p] (f : BitVec 8) :
    setShort (decide p) f = if p then f ||| 0x01#8 else f &&& 0xFE#8 := by
  by_cases hp : p <;> simp [setShort, hp]

theorem enqueueE4_ok {v : EnqueueLocals} (h : isErr (continueAction s).1 = false) :
    enqueueE4 v s =
      { (continueAction s).2 with flags := setShort (isShort v.n v.len) s.flags }.answerApp (countWord v.n) [] := by
  obtain ⟨-, e⟩ | ⟨he, -⟩ := enqueueE4_cases v s
  · exact e
  · rw [h] at he; cases he

theorem enqueueE4_error {v : EnqueueLocals} (h : isErr (continueAction s).1 = true) :
    enqueueE4 v s = { (continueAction s).2 with
      txTail := rolledBackTail s.params s.txHead v.t s.txTail }.answerApp (continueAction s).1 [] := by
  obtain ⟨he, -⟩ | ⟨-, e⟩ := enqueueE4_cases v s
  · rw [h] at he; cases he
  · exact e

/-- The copy-in puts `src[i]` at `add(t, i, TX_CAP)` and leaves every other byte (spec/20_memory.md R70). -/
theorem readByte_copyIn {m : Memory} {a n cap : Nat} {src : List Byte} (ha : a < cap) (hn : n ≤ cap) (hl : n ≤ src.length) :
    (∀ i < n, some (readByte .txBuf (ringWrite m a cap (src.take n)) (ringAdd a i cap)) = src[i]?) ∧
    (∀ x, (∀ i < n, x ≠ ringAdd a i cap) → readByte .txBuf (ringWrite m a cap (src.take n)) x = readByte .txBuf m x) := by
  have hlen : (src.take n).length = n := List.length_take_of_le hl
  refine ⟨fun i hi => ?_, fun x hx => readByte_ringWrite_out ha (hlen.symm ▸ hn) (hlen.symm ▸ hx)⟩
  rw [readByte_ringWrite_in ha (hlen.symm ▸ hn) (hlen.symm ▸ hi), ← List.getElem?_eq_getElem, List.getElem?_take_of_lt hi]

/-- What an ENQUEUE at E2 knows of its snapshot: it fits between the tail and the head (spec/40_tx_engine.md R120). -/
theorem Inv.atE2 {v : EnqueueLocals} (h : Inv s) (hq : s.appSeq = .enqueue .e2 v) :
    v.n.toNat ≤ v.src.length ∧ v.t.toNat < s.params.txCap ∧ v.n.toNat ≤ s.params.txCap ∧
      ringInRange v.t.toNat (v.src.take v.n.toNat).length s.params.txCap = true := by
  have htx := h.sound.tx (h.seqInited (by simp [hq]))
  have hseq := h.seq
  rw [SeqOk, hq] at hseq
  obtain ⟨hl, h1, hn, ht, hfits⟩ := hseq
  have hfree := txUsed_add_txFree htx.head_lt htx.tail_lt
  have htail : v.t.toNat < s.params.txCap := ht ▸ htx.tail_lt
  have hcap : v.n.toNat ≤ s.params.txCap := by omega
  exact ⟨hl ▸ hn, htail, hcap, ringInRange_of_lt htail ((List.length_take_le ..).trans hcap)⟩

end Sys2Proof.Machine

namespace Sys2Proof.Proofs

open Sys2Proof.Machine

/-- Settles O17: E1 Uninitialised, with nothing to copy, and with a snapshot. -/
theorem enqueueAdmitsWhatFits : Obligations.EnqueueAdmitsWhatFits := by
  intro len s hq hl n
  refine ⟨fun hu => exec_before_init hu nofun fun _ => hq, fun hi hn => ?_, fun hi hn => exec_enqueue_admits hq hi hl hn⟩
  rw [exec_enqueue_none hq hi hl hn, setShort_decide, State.answerApp, ← hq]
  rfl

/-- Settles O18: E2 is a copy-in of exactly the bytes accepted, E3 moves the tail and nothing else. -/
theorem enqueueCopiesInThenPublishes : Obligations.EnqueueCopiesInThenPublishes := by
  refine fun v s => ⟨fun h hq => ?_, fun hq => exec_enqueue_e3 hq⟩
  obtain ⟨hl, ht, hn, hr⟩ := h.atE2 hq
  exact ⟨_, exec_enqueue_e2 hq hr, readByte_copyIn ht hn hl⟩

/-- Settles O19: the two ends of E4, and what ContinueAction leaves for them. -/
theorem enqueueKicksOrRollsBack : Obligations.EnqueueKicksOrRollsBack := by
  intro v s hq res u
  refine ⟨fun h => ?_, fun h => ?_, continueAction_flags s, continueAction_txHead s, continueAction_txTail s,
    continueAction_failed⟩
  · rw [exec_enqueue_e4 hq, enqueueE4_ok h, isShort, setShort_decide, ← continueAction_out s]
    rfl
  · rw [exec_enqueue_e4 hq, enqueueE4_error h, ← continueAction_out s]
    rfl

/-- Settles O21: nothing to start, a failed start and an accepted one; CONTINUE gives the action's result. -/
theorem continueSubmitsTheLongestRun : Obligations.ContinueSubmitsTheLongestRun := by
  refine ⟨fun s => ⟨continueAction_noop, fun hr hne => ?_⟩, fun s hq hu => exec_before_init hu nofun fun _ => hq,
    fun s hq hi => ?_⟩
  · rw [continueAction_submit hr hne, runLen_of_ne hne]
    exact ⟨submit_failed, submit_started⟩
  · rw [exec_cont hq hi, State.answerApp, continueAction_out, ← hq, ← continueAction_appSeq s]

/-- Settles O22: once ContinueAction has answered `Ok`, the engine is Running or the ring is empty. -/
theorem continueTwiceIsOnce : Obligations.ContinueTwiceIsOnce := by
  intro s t h hout
  obtain ⟨-, ⟨-, rfl⟩ | ⟨hi, rfl⟩⟩ := execCont_next h
  · simp [State.answer, codeWord] at hout
  · have hok : (continueAction s).1 = codeWord .ok := by
      simpa [codeWord] using hout
    have hset := continueAction_settled (s := s) (by rw [hok]; rfl)
    have hagain := continueAction_noop (s := (continueAction s).2.answerApp (continueAction s).1 []) hset
    rw [exec_cont rfl (by simpa using hi), hagain]
    rfl

/-- Settles O24: what TX_COMPLETE answers in Idle. -/
theorem spuriousCompletionIsIgnored : Obligations.SpuriousCompletionIsIgnored := fun _ => exec_txComplete_idle

/-- Settles O23: TX_COMPLETE Uninitialised, in Idle and in Running. -/
theorem txCompleteCreditsAndChains : Obligations.TxCompleteCreditsAndChains := by
  refine fun s => ⟨fun hu => exec_before_init hu nofun nofun, exec_txComplete_idle, fun hi hr => ?_⟩
  rw [exec_txComplete_running hi hr, State.answerIrq, continueAction_out]
  rfl

/-- Settles O25: the reset of the pair comes before the call, and the call does not touch the block's registers. -/
theorem abortTxKeepsTheQueue : Obligations.AbortTxKeepsTheQueue := by
  refine fun s hq => ⟨fun hu => exec_before_init hu nofun fun _ => hq, fun hi => ?_, rfl, rfl, rfl, rfl⟩
  rw [exec_abortTx hq hi, State.answerApp, ← hq]
  rfl

/-- Settles O26: only ContinueAction starts a run, and the operation that asked for it passes the error on. -/
theorem failedStartCommitsNothing : Obligations.FailedStartCommitsNothing := by
  intro i s t off len r hx hc hr
  cases exec_effect hx with
  | continued =>
    obtain ⟨hres, hrun, hlen⟩ := continueAction_failedStart (s := s) hc hr
    simp [hres, hrun, hlen, Instr.port]
  | credited =>
    obtain ⟨hres, hrun, hlen⟩ := continueAction_failedStart (s := s.creditRun) hc hr
    simp [hres, hrun, hlen, Instr.port]
  | kicked len v hq | rolledBack len v hq =>
    obtain ⟨hres, hrun, hlen⟩ := continueAction_failedStart (s := s) hc hr
    have hend := Host.Outcome.next.inj ((exec_enqueue_e4 hq).symm.trans hx)
    rw [← hend, enqueueE4_error (hres ▸ hr)]
    simp [hres, hrun, hlen, Instr.port]
  | rearmed => simp [rearm_calls_startRx] at hc
  | refreshed | readRefreshed => simp [capRxRemaining_calls] at hc
  | _ => simp at hc

end Sys2Proof.Proofs

/-! A whole uninterrupted ENQUEUE (spec/40_tx_engine.md R120 to R124): the run of its four steps, then the three outcomes of the
last. -/

namespace Sys2Proof.Machine

variable {s t : State}

theorem run_succ {k : Nat} (h : step s = .next t) : core.run (k + 1) s = core.run k t := by
  have hc : core.step s = .next t := h
  simp only [Host.Core.run, hc]

/-- A step of a run in which APP goes on with the operation in progress. -/
theorem run_appStep {k : Nat} {i : Instr} {rest : List Input} (hin : s.inputs = .appStep :: rest)
    (hc : s.appSeq.current? = some i) (hx : exec i { s with inputs := rest } = .next t) : core.run (k + 1) s = core.run k t := by
  refine run_succ ?_
  rw [step_inputs hin]
  simpa only [runInput, appStep, hc] using hx

/-- The snapshot that E1 takes (spec/40_tx_engine.md R120). -/
def State.snapshot (len : Idx) (src : List Byte) (s : State) : EnqueueLocals :=
  ⟨len, src, s.txTail, idxOf (min len.toNat (txFree s.params s.txHead s.txTail))⟩

section
variable (len : Idx) (src : List Byte) (s : State)

theorem snapshot_n : (s.snapshot len src).n.toNat = min len.toNat (txFree s.params s.txHead s.txTail) :=
  idxOf_toNat (by have := len.isLt; omega)

theorem countWord_snapshot :
    countWord (s.snapshot len src).n = BitVec.ofNat 32 (min len.toNat (txFree s.params s.txHead s.txTail)) := by
  rw [← snapshot_n len src s, ← countWord_toNat, BitVec.ofNat_toNat, BitVec.setWidth_eq]

theorem isShort_snapshot :
    isShort (s.snapshot len src).n len = decide (min len.toNat (txFree s.params s.txHead s.txTail) < len.toNat) := by
  rw [isShort, snapshot_n]

end

/-- `s` as an ENQUEUE that nothing interrupts finds it at E4: the bytes are in place and published. -/
def State.beforeKick (len : Idx) (src : List Byte) (rest : List Input) (s : State) : State :=
  let n := min len.toNat (txFree s.params s.txHead s.txTail)
  { s with
    txBuf := ringWrite s.txBuf s.txTail.toNat s.params.txCap (src.take n)
    txTail := idxOf (ringAdd s.txTail.toNat n s.params.txCap)
    appSeq := .enqueue .e4 (s.snapshot len src)
    appSrc := src
    inputs := rest }

/-- From E1 to the state that E4 leaves. -/
theorem run_enqueue {len : Idx} {src : List Byte} {rest : List Input} (h : Inv s) (hq : s.appSeq = .idle) (hi : s.inited = true)
    (hl : src.length = len.toNat)
    (hin : s.inputs = .app (encode (.enqueue len)) src :: .appStep :: .appStep :: .appStep :: rest)
    (hn : min len.toNat (txFree s.params s.txHead s.txTail) ≠ 0) :
    core.run 4 s = .next (enqueueE4 (s.snapshot len src) (s.beforeKick len src rest)) := by
  have hadmits : step s = .next ((s.scheduled (.appStep :: .appStep :: .appStep :: rest) src).standAt
      (.enqueue .e2 (s.snapshot len src))) := by
    rw [step_command (p := .app) hin fun _ => hq, runWord_ok (p := .app) (decode_encode (.enqueue len))]
    exact exec_enqueue_admits hq hi hl hn
  obtain ⟨-, -, -, hr⟩ := (Proofs.stepKeepsInv s _ h hadmits).atE2 rfl
  refine Eq.trans (run_succ hadmits) ?_
  refine Eq.trans (run_appStep rfl rfl (exec_enqueue_e2 rfl hr)) ?_
  refine Eq.trans (run_appStep rfl rfl (exec_enqueue_e3 rfl)) ?_
  refine Eq.trans (run_appStep rfl rfl (exec_enqueue_e4 rfl)) ?_
  rw [State.beforeKick, ← snapshot_n len src s]
  rfl

/-- Publishing bytes that fit lets the queue grow by them. -/
theorem txUsed_publish {p : Params} {head tail : Idx} {n : Nat} (hp : p.WellFormed) (hh : head.toNat < p.txCap)
    (ht : tail.toNat < p.txCap) (hn : n ≤ txFree p head tail) :
    txUsed p head (idxOf (ringAdd tail.toNat n p.txCap)) = txUsed p head tail + n := by
  have hfree := txUsed_add_txFree hh ht
  unfold txUsed at *
  rw [idxOf_ringAdd_toNat (txCap_range hp), ringDist_add_right hh ht (by omega)]

/-- What E4 leaves alone, whatever becomes of the start. -/
theorem enqueueE4_frame (v : EnqueueLocals) (s : State) : (enqueueE4 v s).appSeq = .idle ∧ (enqueueE4 v s).inputs = s.inputs ∧
    (enqueueE4 v s).txHead = s.txHead ∧ (enqueueE4 v s).txBuf = s.txBuf ∧ (enqueueE4 v s).rxBuf = s.rxBuf ∧
    (enqueueE4 v s).rxHead = s.rxHead ∧ (enqueueE4 v s).rxTail = s.rxTail ∧ (enqueueE4 v s).inited = s.inited ∧
    (enqueueE4 v s).caps = s.caps := by
  rcases enqueueE4_cases v s with ⟨-, e⟩ | ⟨-, e⟩ <;> rw [e] <;> simp

section
variable (v : EnqueueLocals)

/-- E4 that finds the engine Running: no call, the count is the result. -/
theorem enqueueE4_running (hr : s.txRun = true) :
    (enqueueE4 v s).txTail = s.txTail ∧ (enqueueE4 v s).txRun = true ∧ (enqueueE4 v s).txLen = s.txLen ∧
    (enqueueE4 v s).calls = s.calls ∧ (enqueueE4 v s).env = s.env ∧
    (enqueueE4 v s).out = ⟨.app, countWord v.n, []⟩ :: s.out ∧
    (enqueueE4 v s).flags = setShort (isShort v.n v.len) s.flags := by
  have hc := continueAction_noop (.inl hr)
  rw [enqueueE4_ok (by rw [hc]; exact isErr_codeWord_ok), hc]
  exact ⟨rfl, hr, rfl, rfl, rfl, rfl, rfl⟩

/-- E4 whose start succeeds: the longest run is committed, the count is the result. -/
theorem enqueueE4_starts (hr : s.txRun = false) (hne : s.txHead ≠ s.txTail) (he : isErr s.choice.resp = false) :
    (enqueueE4 v s).txTail = s.txTail ∧ (enqueueE4 v s).txRun = true ∧
    (enqueueE4 v s).txLen = idxOf (runLen s.params s.txHead s.txTail) ∧
    (enqueueE4 v s).calls = ⟨.startTx, s.txHead, idxOf (runLen s.params s.txHead s.txTail), s.choice.resp⟩ :: s.calls ∧
    (enqueueE4 v s).out = ⟨.app, countWord v.n, []⟩ :: s.out ∧
    (enqueueE4 v s).flags = setShort (isShort v.n v.len) s.flags := by
  have hc := (continueAction_submit hr hne).trans (submit_started he)
  rw [enqueueE4_ok (by rw [hc]; exact isErr_codeWord_ok), hc]
  exact ⟨rfl, rfl, rfl, rfl, rfl, rfl⟩

/-- E4 whose start fails, with the snapshot still in the queued region: the call's bytes are un-accepted. -/
theorem enqueueE4_fails (hr : s.txRun = false) (hne : s.txHead ≠ s.txTail) (he : isErr s.choice.resp = true)
    (ht : txUsed s.params s.txHead v.t ≤ txUsed s.params s.txHead s.txTail) :
    (enqueueE4 v s).txTail = v.t ∧ (enqueueE4 v s).txRun = false ∧ (enqueueE4 v s).txLen = 0#24 ∧
    (enqueueE4 v s).calls = ⟨.startTx, s.txHead, idxOf (runLen s.params s.txHead s.txTail), s.choice.resp⟩ :: s.calls ∧
    (enqueueE4 v s).out = ⟨.app, s.choice.resp, []⟩ :: s.out ∧ (enqueueE4 v s).flags = s.flags := by
  have hc := (continueAction_submit hr hne).trans (submit_failed he)
  have hback : rolledBackTail s.params s.txHead v.t s.txTail = v.t := if_pos ht
  rw [enqueueE4_error (by rw [hc]; exact he), hc, hback]
  exact ⟨rfl, rfl, rfl, rfl, rfl, rfl⟩

end

theorem shortOf_setShort (b : Bool) (f : BitVec 8) : shortOf (setShort b f) = b := by
  cases b <;> simp [shortOf, setShort]

end Sys2Proof.Machine

namespace Sys2Proof.Proofs

open Sys2Proof.Machine

/-- Settles O20: the four steps end in E4, which finds the engine Running, starts it or fails to. -/
theorem uninterruptedEnqueue : Obligations.UninterruptedEnqueue := by
  intro len src s rest h hq hi hl hin n tail run hn
  have htx := h.sound.tx hi
  have hcap := txCap_range h.params
  have hfree := txUsed_add_txFree htx.head_lt htx.tail_lt
  have hgrown : txUsed s.params s.txHead (idxOf tail) = txUsed s.params s.txHead s.txTail + n :=
    txUsed_publish h.params htx.head_lt htx.tail_lt (Nat.min_le_right _ _)
  have htail : (idxOf tail).toNat = tail := idxOf_ringAdd_toNat hcap
  have hne : s.txHead ≠ idxOf tail := fun e => by
    have := (txUsed_eq_zero htx.head_lt).2 e
    omega
  have hrunLen : (idxOf run).toNat = run := runLen_toNat h.params htx.head_lt (idxOf_ringAdd_lt hcap) hne
  obtain ⟨hcopied, hkept⟩ := readByte_copyIn (m := s.txBuf) htx.tail_lt (n := n) (src := src) (by omega) (by omega)
  have hshort (f : BitVec 8) : shortOf (setShort (isShort (s.snapshot len src).n len) f) = decide (n < len.toNat) := by
    rw [shortOf_setShort, isShort_snapshot]
  let v := s.snapshot len src
  let u := s.beforeKick len src rest
  have hcount : (⟨.app, countWord v.n, []⟩ :: u.out : List Result) = ⟨.app, BitVec.ofNat 32 n, []⟩ :: s.out :=
    congrArg (fun w => (⟨.app, w, []⟩ :: s.out : List Result)) (countWord_snapshot len src s)
  refine ⟨_, run_enqueue h hq hi hl hin hn, ?_⟩
  obtain ⟨hq', hin', hh', hb', hrb, hrh, hrt, hi', hc'⟩ := enqueueE4_frame v u
  rw [hb']
  refine ⟨hq', hin', hh', hcopied, hkept, hrb, hrh, hrt, hi', hc', fun hr => ?_, fun hr he => ?_, fun hr he => ?_⟩
  · obtain ⟨ht, hrun, hlen, hcalls, henv, hout, hflags⟩ := enqueueE4_running v (s := u) hr
    exact ⟨ht ▸ htail, hrun, hlen, hcalls, henv, hout.trans hcount, hflags ▸ hshort _⟩
  · obtain ⟨ht, hrun, hlen, hcalls, hout, hflags⟩ := enqueueE4_starts v (s := u) hr hne he
    exact ⟨ht ▸ htail, hrun, hlen ▸ hrunLen, hcalls, hout.trans hcount, hflags ▸ hshort _⟩
  · have hback : txUsed s.params s.txHead s.txTail ≤ txUsed s.params s.txHead (idxOf tail) := by omega
    exact enqueueE4_fails v (s := u) hr hne he hback

end Sys2Proof.Proofs

/-! No start over a run in flight (spec/40_tx_engine.md R129 (b)). -/

namespace Sys2Proof.Machine

variable {s t : State}

/-- No call from `s` to `t` starts a run. -/
def NoTxStart (s t : State) : Prop := ∀ new, NewCalls s t new → ∀ c ∈ new, c.cap ≠ .startTx

theorem NoTxStart.of_calls {made : List CapCall} (h : t.calls = made ++ s.calls) (hc : ∀ c ∈ made, c.cap ≠ .startTx) :
    NoTxStart s t := fun new hn => by
  obtain rfl : new = made := List.append_cancel_right (hn.symm.trans h)
  exact hc

theorem NoTxStart.of_noCall (h : t.calls = s.calls) : NoTxStart s t := .of_calls (made := []) h nofun

theorem NoTxStart.of_call {c : CapCall} (h : t.calls = c :: s.calls) (hc : c.cap ≠ .startTx) : NoTxStart s t :=
  .of_calls (made := [c]) h (by simpa using hc)

/-- While the engine is Running an operation other than TX_COMPLETE starts nothing (spec/40_tx_engine.md R123). -/
theorem exec_noTxStart {i : Instr} (hr : s.txRun = true) (hne : i ≠ .txComplete) (hx : exec i s = .next t) : NoTxStart s t := by
  cases exec_effect hx with
  | credited => exact absurd rfl hne
  | continued | kicked | rolledBack =>
    rw [continueAction_noop (.inl hr)]
    exact .of_noCall rfl
  | initFailed | initialised => exact .of_call rfl nofun
  | aborted => exact .of_call (capAbortTx_calls s.leaveRunning) nofun
  | tornDown => exact .of_calls (made := [_, _]) rfl (by simp)
  | refreshed | readRefreshed => exact .of_call (capRxRemaining_calls s) nofun
  | rearmed =>
    have hcalls := rearm_calls_startRx ((capRxRemaining s).2.refreshTail (capRxRemaining s).1)
    rw [State.refreshTail_calls, capRxRemaining_calls] at hcalls
    exact .of_calls (made := [_, _]) hcalls (by simp)
  | clockRead | timedOut => exact .of_call rfl nofun
  | _ => exact .of_noCall rfl

theorem env_calls (he : EnvEffect s t) : t.calls = s.calls := by cases he <;> rfl

end Sys2Proof.Machine

namespace Sys2Proof.Proofs

open Sys2Proof.Machine

/-- Settles O47: a run in flight is the block's own, so the engine is Running, and TX_COMPLETE is only taken once ENV has
completed it. -/
theorem noStartWhileARunIsInFlight : Obligations.NoStartWhileARunIsInFlight := by
  intro s t new h hstray hstep hn ⟨c, hc, hstart⟩
  by_contra hf
  obtain ⟨r, hr⟩ := Option.ne_none_iff_exists'.1 hf
  obtain ⟨-, hrun⟩ := h.of_inFlight hr
  suffices NoTxStart s t from this new hn c hc hstart
  cases step_effect hstep with
  | waits => exact .of_noCall rfl
  | runs rest src hx hirq =>
    refine exec_noTxStart (s := s.scheduled rest src) hrun (fun e => ?_) hx
    obtain ⟨cw, hin, hd⟩ := hirq e
    exact hstray cw hin hd
  | rejects rest src p v => cases p <;> exact .of_noCall rfl
  | takes rest e hp hx =>
    refine exec_noTxStart (s := (s.scheduled rest s.appSrc).clearPend e) hrun (fun he => ?_) hx
    rw [Event.instr_eq_txComplete.1 he] at hp
    exact hf (h.of_pending hp)
  | env rest he => exact .of_noCall (env_calls (s := s.scheduled rest s.appSrc) he)
  | resets rest =>
    obtain ⟨rfl, -⟩ := List.append_eq_nil_iff.1 hn.symm
    cases hc

end Sys2Proof.Proofs

/-! The transmitted stream (spec/40_tx_engine.md R129 (c)): what has reached the wire, followed by what is queued and unsent. -/

namespace Sys2Proof.Machine

variable {s t : State}

/-- The wire followed by the unsent bytes grew by `new` from `s` to `t`. -/
def StreamGrows (s t : State) (new : List Byte) : Prop :=
  t.env.txWire ++ unsentBytes t = s.env.txWire ++ unsentBytes s ++ new

/-! Where the unsent bytes begin -/

theorem unsentFrom_of_idle (hr : s.txRun = false) : unsentFrom s = s.txHead.toNat := by simp [unsentFrom, hr]

theorem unsentFrom_of_inFlight {r : Run} (hf : s.env.txRun = some r) : unsentFrom s = s.txHead.toNat := by
  simp [unsentFrom, hf]

theorem unsentFrom_of_completed (hr : s.txRun = true) (hf : s.env.txRun = none) :
    unsentFrom s = ringAdd s.txHead.toNat s.txLen.toNat s.params.txCap := by simp [unsentFrom, hr, hf]

theorem unsentFrom_congr (e : t.params = s.params ∧ t.txHead = s.txHead ∧ t.txRun = s.txRun ∧ t.txLen = s.txLen ∧
    t.env.txRun = s.env.txRun) : unsentFrom t = unsentFrom s := by
  obtain ⟨hp, hh, hr, hl, hf⟩ := e
  simp only [unsentFrom, hp, hh, hr, hl, hf]

/-- The unsent bytes lie within the queued ones. -/
theorem unsentFrom_bounds (h : TxOk s.params s.txHead s.txTail s.txRun s.txLen) :
    unsentFrom s < s.params.txCap ∧
      ringDist (unsentFrom s) s.txTail.toNat s.params.txCap ≤ txUsed s.params s.txHead s.txTail := by
  have hh := h.head_lt
  by_cases hsent : s.txRun = true ∧ s.env.txRun = none
  · obtain ⟨hr, hf⟩ := hsent
    obtain ⟨-, hused, -⟩ := h.running hr
    rw [unsentFrom_of_completed hr hf]
    refine ⟨ringAdd_lt (Nat.zero_lt_of_lt hh), ?_⟩
    rw [ringDist_add_left hh h.tail_lt hused]
    exact Nat.sub_le _ _
  · have hfrom : unsentFrom s = s.txHead.toNat := if_neg (by simpa using hsent)
    rw [hfrom]
    exact ⟨hh, Nat.le_refl _⟩

/-! Steps that move nothing -/

/-- The ends of a step between which no byte is published or sent. -/
structure StreamStill (s t : State) : Prop where
  params : t.params = s.params
  txBuf : t.txBuf = s.txBuf
  txTail : t.txTail = s.txTail
  txWire : t.env.txWire = s.env.txWire
  unsentFrom : unsentFrom t = unsentFrom s
  appSeq : ∀ v w, s.appSeq = .enqueue .e3 v → t.appSeq ≠ .enqueue .e4 w

theorem publishedBytes_eq_nil (h : ∀ v w, s.appSeq = .enqueue .e3 v → t.appSeq ≠ .enqueue .e4 w) : publishedBytes s t = [] := by
  unfold publishedBytes
  split
  · exact absurd ‹_› (h _ _ ‹_›)
  · rfl

theorem StreamStill.grows (h : StreamStill s t) : StreamGrows s t (publishedBytes s t) := by
  have hbytes : unsentBytes t = unsentBytes s := by simp only [unsentBytes, h.params, h.txBuf, h.txTail, h.unsentFrom]
  rw [StreamGrows, publishedBytes_eq_nil h.appSeq, h.txWire, hbytes, List.append_nil]

/-- A step that leaves the transmit side of the block and of ENV alone. -/
theorem StreamStill.of_eq (e : t.params = s.params ∧ t.txBuf = s.txBuf ∧ t.txTail = s.txTail ∧ t.env.txWire = s.env.txWire ∧
    t.txHead = s.txHead ∧ t.txRun = s.txRun ∧ t.txLen = s.txLen ∧ t.env.txRun = s.env.txRun)
    (hq : ∀ v w, s.appSeq = .enqueue .e3 v → t.appSeq ≠ .enqueue .e4 w) : StreamStill s t := by
  obtain ⟨hp, hb, ht, hw, hh, hr, hl, hf⟩ := e
  exact ⟨hp, hb, ht, hw, unsentFrom_congr ⟨hp, hh, hr, hl, hf⟩, hq⟩

theorem streamStill_answer (p : Port) (v : Word) : StreamStill s (s.answer p v) := by
  cases p <;> exact .of_eq (by simp [State.answer]) (by simp +contextual [State.answer])

/-- A started run is unsent until ENV completes it, and a start over no run in flight puts nothing on the wire. -/
theorem continueAction_stream (h : s.txRun = false → s.env.txRun = none) :
    (continueAction s).2.env.txWire = s.env.txWire ∧ unsentFrom (continueAction s).2 = unsentFrom s := by
  rcases continueAction_cases s with ⟨-, e⟩ | ⟨hr, -, he, e⟩ | ⟨hr, -, he, e⟩ <;> rw [e]
  · exact ⟨rfl, rfl⟩
  · simp [unsentFrom, afterStartTx_none (h hr), he, hr]
  · simp [unsentFrom, afterStartTx_none (h hr), he, hr]

/-- An idle engine has no run in flight, whether or not the block is Initialised (spec/10_state.md R40 (d)). -/
theorem TxCoupled.no_run (h : TxCoupled s) (hr : s.txRun = false) : s.env.txRun = none := by
  cases hi : s.inited
  · exact (h.uninit hi).1
  · exact (h.idle hi hr).1

/-- Taking another event than TX_COMPLETE leaves the agreement. -/
theorem TxCoupled.clearPend_other {e : Event} (h : TxCoupled s) (he : e ≠ .txComplete) : TxCoupled (s.clearPend e) :=
  h.of_eq ⟨rfl, rfl, rfl, rfl, rfl, Pend.get_put_other _ _ (e' := .txComplete) he.symm⟩

/-! Steps that publish or send -/

/-- A copy-in goes to free slots, so it leaves the unsent bytes as they are (spec/40_tx_engine.md R121). -/
theorem streamGrows_copiedIn {v : EnqueueLocals} (hInv : Inv s) (hq : s.appSeq = .enqueue .e2 v) :
    StreamGrows s ({ s with
      txBuf := ringWrite s.txBuf v.t.toNat s.params.txCap (v.src.take v.n.toNat) }.standAt (.enqueue .e3 v)) [] := by
  have htx := hInv.sound.tx (hInv.seqInited (by simp [hq]))
  have hseq := hInv.seq
  rw [SeqOk, hq] at hseq
  obtain ⟨-, -, -, ht, hfits⟩ := hseq
  obtain ⟨hfrom, hunsent⟩ := unsentFrom_bounds htx
  have hfree := txUsed_add_txFree htx.head_lt htx.tail_lt
  have hlen : (v.src.take v.n.toNat).length ≤ v.n.toNat := List.length_take_le ..
  have hsame : ringRead .txBuf (ringWrite s.txBuf v.t.toNat s.params.txCap (v.src.take v.n.toNat)) (unsentFrom s)
      (ringDist (unsentFrom s) s.txTail.toNat s.params.txCap) s.params.txCap = unsentBytes s := by
    refine ringRead_congr hfrom (Nat.le_of_lt (ringDist_lt hfrom htx.tail_lt)) fun i hi => ?_
    rw [ht]
    refine readByte_ringWrite_out htx.tail_lt (by omega) fun j hj he => ?_
    have hnear := ringDist_ringAdd hfrom (k := i) (by omega)
    have hfar := ringDist_add_right hfrom htx.tail_lt (k := j) (by omega)
    rw [← he] at hfar
    omega
  rw [StreamGrows, List.append_nil, ← hsame]
  rfl

/-- Moving the tail appends the bytes that E2 put past it (spec/40_tx_engine.md R121). -/
theorem streamGrows_published {v : EnqueueLocals} (hInv : Inv s) (hq : s.appSeq = .enqueue .e3 v) :
    StreamGrows s ({ s with
      txTail := idxOf (ringAdd v.t.toNat v.n.toNat s.params.txCap) }.standAt (.enqueue .e4 v)) (v.src.take v.n.toNat) := by
  have htx := hInv.sound.tx (hInv.seqInited (by simp [hq]))
  have hseq := hInv.seq
  rw [SeqOk, hq] at hseq
  obtain ⟨-, -, -, ht, hfits, hcopied⟩ := hseq
  obtain ⟨hfrom, hunsent⟩ := unsentFrom_bounds htx
  have hfree := txUsed_add_txFree htx.head_lt htx.tail_lt
  have hpos := htx.tail_lt
  have hgrown : ringRead .txBuf s.txBuf (unsentFrom s) (ringDist (unsentFrom s)
      (idxOf (ringAdd v.t.toNat v.n.toNat s.params.txCap)).toNat s.params.txCap) s.params.txCap =
      unsentBytes s ++ v.src.take v.n.toNat := by
    rw [idxOf_ringAdd_toNat (txCap_range hInv.params), ← hcopied, ht, ringDist_add_right hfrom hpos (by omega),
      ringRead_append hfrom (by omega), ringAdd_ringDist hfrom hpos]
    rfl
  rw [StreamGrows, List.append_assoc, ← hgrown]
  rfl

/-- ENV sends the committed run, which is the oldest part of what is queued (spec/43_capability_calls.md R215). -/
theorem streamGrows_completed {r : Run} (h : Inv s) (hc : TxCoupled s) (hr : s.env.txRun = some r) :
    StreamGrows s (completeRun r s) [] := by
  obtain ⟨hi, hrun⟩ := hc.of_inFlight hr
  have htx := h.sound.tx hi
  obtain ⟨-, hused, hend⟩ := htx.running hrun
  obtain rfl : r = ⟨s.txHead, s.txLen⟩ := by
    rcases hc.running hi hrun with ⟨hf, -⟩ | ⟨hf, -⟩ <;> rw [hr] at hf <;> cases hf
    rfl
  have hrest : unsentFrom (completeRun ⟨s.txHead, s.txLen⟩ s) = ringAdd s.txHead.toNat s.txLen.toNat s.params.txCap :=
    unsentFrom_of_completed hrun rfl
  have hsplit : unsentBytes s = memRead .txBuf s.txBuf s.txHead.toNat s.txLen.toNat ++
      ringRead .txBuf s.txBuf (ringAdd s.txHead.toNat s.txLen.toNat s.params.txCap)
        (ringDist (ringAdd s.txHead.toNat s.txLen.toNat s.params.txCap) s.txTail.toNat s.params.txCap) s.params.txCap := by
    have hlt := txUsed_lt htx.head_lt htx.tail_lt
    unfold txUsed at hused hlt
    rw [unsentBytes, unsentFrom_of_inFlight hr, ringDist_add_left htx.head_lt htx.tail_lt hused, ← ringRead_contiguous hend,
      ← ringRead_append htx.head_lt (by omega), Nat.add_sub_cancel' hused]
  rw [StreamGrows, hsplit, List.append_nil, unsentBytes, hrest, ← List.append_assoc]
  rfl

/-! Every kind of step -/

/-- An abort that a step logged is against `NoAborts`. -/
theorem NoAborts.absurd_of_logged {pre post : List CapCall} {r : Word} (h : NoAborts s t)
    (hn : t.calls = (pre ++ ⟨.abortTx, 0#24, 0#24, r⟩ :: post) ++ s.calls) : False :=
  h _ hn ⟨.abortTx, 0#24, 0#24, r⟩ (by simp) rfl

/-- Every operation but TX_COMPLETE. -/
theorem exec_streamGrows {i : Instr} (hInv : Inv s) (h : TxCoupled s) (hi : s.inited = true) (hne : i ≠ .txComplete)
    (hx : exec i s = .next t) (hno : NoAborts s t) (ht : t.txTail = s.txTail ∨ ∃ v, s.appSeq = .enqueue .e3 v) :
    StreamGrows s t (publishedBytes s t) := by
  obtain ⟨hwire, hfrom⟩ := continueAction_stream h.no_run
  cases exec_effect hx with
  | initFailed m hu | initialised m hu => rw [hi] at hu; cases hu
  | aborted => exact (hno.absurd_of_logged (pre := []) (post := []) (capAbortTx_calls s.leaveRunning)).elim
  | tornDown => exact (hno.absurd_of_logged (pre := [_]) (post := []) rfl).elim
  | credited => exact absurd rfl hne
  | continued | kicked => exact StreamStill.grows ⟨by simp, by simp, by simp, hwire, hfrom, by simp⟩
  | rolledBack len v hq =>
    exact StreamStill.grows ⟨by simp, by simp, ht.resolve_right (by simp [hq]), hwire, hfrom, by simp⟩
  | copiedIn len v hq =>
    rw [publishedBytes_eq_nil (by simp)]
    exact streamGrows_copiedIn hInv hq
  | published len v hq =>
    simp only [publishedBytes, hq]
    exact streamGrows_published hInv hq
  | _ => exact StreamStill.grows (.of_eq (by simp) (by simp +contextual))

/-- The credit of a run that ENV has completed leaves the unsent bytes to begin where they did (spec/40_tx_engine.md R125). -/
theorem unsentFrom_creditRun (hp : s.params.WellFormed) (hr : s.txRun = true) (hf : s.env.txRun = none) :
    unsentFrom s.creditRun = unsentFrom s := by
  rw [unsentFrom_of_idle rfl, unsentFrom_of_completed hr hf, State.creditRun_txHead, idxOf_ringAdd_toNat (txCap_range hp)]

theorem takeCompletion_streamStill (hInv : Inv s) (h : TxCoupled s) (hp : s.env.pend.txComplete = true)
    (hx : exec .txComplete (s.clearPend .txComplete) = .next t) : StreamStill s t := by
  have hf := h.of_pending hp
  obtain ⟨-, rfl⟩ | ⟨-, -, rfl⟩ | ⟨-, hr, rfl⟩ := execTxComplete_next hx
  · exact .of_eq ⟨rfl, rfl, rfl, rfl, rfl, rfl, rfl, rfl⟩ (by simp +contextual [State.answer])
  · exact .of_eq ⟨rfl, rfl, rfl, rfl, rfl, rfl, rfl, rfl⟩ (by simp +contextual)
  · obtain ⟨hwire, hfrom⟩ := continueAction_stream (s := (s.clearPend .txComplete).creditRun) fun _ => hf
    exact ⟨by simp, by simp, by simp, hwire, hfrom.trans (unsentFrom_creditRun hInv.params hr hf), by simp +contextual⟩

theorem env_streamGrows (hInv : Inv s) (h : TxCoupled s) (he : EnvEffect s t) : StreamGrows s t (publishedBytes s t) := by
  have stays (hq : t.appSeq = s.appSeq) : ∀ v w, s.appSeq = .enqueue .e3 v → t.appSeq ≠ .enqueue .e4 w := by
    simp +contextual [hq]
  cases he with
  | completed r hr =>
    rw [publishedBytes_eq_nil (stays rfl)]
    exact streamGrows_completed hInv h hr
  | _ => exact StreamStill.grows (.of_eq ⟨rfl, rfl, rfl, rfl, rfl, rfl, rfl, rfl⟩ (stays rfl))

/-- The operation that initialises the block (spec/42_device_lifecycle.md R181). -/
theorem exec_initialises {i : Instr} (hu : s.inited = false) (hx : exec i s = .next t) (hi : t.inited = true) :
    t.env.txWire = s.env.txWire ∧ t.txRun = false ∧ t.txHead = 0#24 ∧ t.txTail = 0#24 := by
  cases exec_effect hx with
  | initialised => simp
  | _ => simp [hu] at hi

theorem env_inited (he : EnvEffect s t) : t.inited = s.inited := by cases he <;> rfl

/-- With the ring empty and the engine idle nothing is unsent. -/
theorem unsentBytes_of_empty (hr : t.txRun = false) (he : t.txHead = t.txTail) : unsentBytes t = [] := by
  rw [unsentBytes, unsentFrom_of_idle hr, he, ringDist_self]
  exact List.length_eq_zero_iff.1 (ringRead_length ..)

theorem step_initialises (hu : s.inited = false) (hstep : step s = .next t) (hi : t.inited = true) :
    t.env.txWire = s.env.txWire ∧ t.txRun = false ∧ t.txHead = 0#24 ∧ t.txTail = 0#24 := by
  have not_inited {u : State} (h : u.inited = s.inited) : ¬ u.inited = true := by simp [h, hu]
  cases step_effect hstep with
  | waits => exact absurd hi (not_inited rfl)
  | runs rest src hx => exact exec_initialises (s := s.scheduled rest src) hu hx hi
  | rejects rest src p v => cases p <;> exact absurd hi (not_inited rfl)
  | takes rest e _ hx => exact exec_initialises (s := (s.scheduled rest _).clearPend e) hu hx hi
  | env rest he => exact absurd hi (not_inited (env_inited (s := s.scheduled rest s.appSrc) he))
  | resets => cases hi

end Sys2Proof.Machine

namespace Sys2Proof.Proofs

open Sys2Proof.Machine

/-- Settles O53: only publishing adds bytes to the stream and only ENV's completion of the committed run moves any of them to the
wire; INIT empties the ring. -/
theorem transmittedStreamInOrder : Obligations.TransmittedStreamInOrder := by
  refine ⟨fun s t hInv h hstray hreset hi hstep hno ht => ?_, fun s t _ hu hstep hi => ?_⟩
  · suffices StreamGrows s t (publishedBytes s t) from this
    cases step_effect hstep with
    | waits => exact (StreamStill.of_eq ⟨rfl, rfl, rfl, rfl, rfl, rfl, rfl, rfl⟩ (by simp +contextual)).grows
    | runs rest src hx hirq =>
      refine exec_streamGrows (s := s.scheduled rest src) (hInv.scheduled rest src) (h.scheduled rest src) hi (fun e => ?_)
        hx hno ht
      obtain ⟨cw, hin, hd⟩ := hirq e
      exact hstray cw hin hd
    | rejects rest src p v =>
      exact (streamStill_answer (s := s.scheduled rest src) p v).grows
    | takes rest e hp hx =>
      have hInv' := hInv.scheduled rest s.appSrc
      have h' := h.scheduled rest s.appSrc
      by_cases he : e = .txComplete
      · subst he
        exact (takeCompletion_streamStill hInv' h' hp hx).grows
      · exact exec_streamGrows (s := (s.scheduled rest s.appSrc).clearPend e) (hInv'.clearPend e) (h'.clearPend_other he) hi
          (mt Event.instr_eq_txComplete.1 he) hx hno ht
    | env rest he => exact env_streamGrows (s := s.scheduled rest s.appSrc) (hInv.scheduled rest _) (h.scheduled rest _) he
    | resets rest hr => exact absurd hr hreset
  · obtain ⟨hwire, hr, hh, htl⟩ := step_initialises hu hstep hi
    exact ⟨hwire, unsentBytes_of_empty hr (hh.trans htl.symm)⟩

end Sys2Proof.Proofs

/-! The receive engine (spec/41_rx_engine.md R153 to R162): what each of its operations and READ's steps answer, case by case. -/

namespace Sys2Proof.Machine

variable {s t : State}

/-! READ, step by step (spec/41_rx_engine.md R155 to R157) -/

theorem exec_read_r1 {m : Idx} (hq : s.appSeq = .idle) (hi : s.inited = true)
    (hr : (capRxRemaining s).1.toNat ≤ s.rxSize.toNat) :
    exec (.read m) s = .next (((capRxRemaining s).2.refreshTail (capRxRemaining s).1).standAt (.readR2 m)) := by
  simp only [exec, execRead, hq, whenInited_true hi, readR1, refreshAction_of_le hr]

theorem exec_read_r2 {m k : Idx} (hq : s.appSeq = .readR2 m) : exec (.read k) s = .next (readR2 m s) := by
  simp only [exec, execRead, hq]

theorem exec_read_r3 {m k h n : Idx} (hq : s.appSeq = .readR3 m h n) (hr : ringInRange h.toNat n.toNat s.params.rxCap = true) :
    exec (.read k) s =
      .next (s.standAt (.readR4 m h n (ringRead .rxBuf s.rxBuf h.toNat n.toNat s.params.rxCap))) := by
  simp only [exec, execRead, hq, readR3, hr, if_true]

theorem exec_read_r4 {m k h n : Idx} {dst : List Byte} (hq : s.appSeq = .readR4 m h n dst) :
    exec (.read k) s = .next (readR4 m h n dst s) := by
  simp only [exec, execRead, hq]

/-- What READ knows of its snapshot at R3: it starts at the head, inside the buffer, and is shorter than the buffer. -/
theorem Inv.atR3 {m hd n : Idx} (h : Inv s) (hq : s.appSeq = .readR3 m hd n) :
    hd = s.rxHead ∧ hd.toNat < s.params.rxCap ∧ n.toNat < s.params.rxCap := by
  have hhead := (h.live (h.seqInited (by simp [hq]))).rxHead_lt
  have hseq := h.seq
  rw [SeqOk, hq] at hseq
  obtain ⟨rfl, -, -, hn⟩ := hseq
  exact ⟨rfl, hhead, hn⟩

/-- What READ knows of its snapshot and copy at R4. -/
theorem Inv.atR4 {m hd n : Idx} {dst : List Byte} (h : Inv s) (hq : s.appSeq = .readR4 m hd n dst) :
    hd = s.rxHead ∧ n.toNat ≤ m.toNat ∧ n.toNat < s.params.rxCap ∧ dst.length = n.toNat := by
  have hseq := h.seq
  rw [SeqOk, hq] at hseq
  obtain ⟨hh, -, hn, hcap, hl⟩ := hseq
  exact ⟨hh, hn, hcap, hl⟩

/-! Refresh and rearm (spec/41_rx_engine.md R153, R154, R158, R162) -/

/-- What RefreshAction leaves: the tail, besides what the call itself does (spec/41_rx_engine.md R153). -/
theorem refreshed_eq (s : State) : (capRxRemaining s).2.refreshTail (capRxRemaining s).1 = { (capRxRemaining s).2 with
    rxTail := idxOf ((s.rxOrg.toNat + (s.rxSize.toNat - (capRxRemaining s).1.toNat)) % s.params.rxCap) } := by
  simp [State.refreshTail, ringAdd]

theorem answerIrq_of_out {u : State} {o : List Result} (h : u.out = o) (v : Word) :
    u.answerIrq v = { u with out := ⟨.irq, v, []⟩ :: o } := h ▸ rfl

theorem exec_refresh {i : Instr} (hr : i = .idleLine ∨ i = .rxHalf) (hi : s.inited = true)
    (hle : (capRxRemaining s).1.toNat ≤ s.rxSize.toNat) :
    exec i s = .next (((capRxRemaining s).2.refreshTail (capRxRemaining s).1).answerIrq (codeWord .ok)) := by
  rcases hr with rfl | rfl <;>
    simp only [exec, execIdleLine, execRxHalf, whenInited_true hi, refreshAndAnswer, refreshAction_of_le hle]

theorem exec_refresh_armed {i : Instr} {b : Batch} (hr : i = .idleLine ∨ i = .rxHalf) (hi : s.inited = true)
    (hb : s.env.rxBatch = some b) (hle : b.rem.toNat ≤ s.rxSize.toNat) :
    exec i s = .next (((s.logCall .rxRemaining 0#24 0#24 (countWord b.rem)).refreshTail (countWord b.rem)).answerIrq
      (codeWord .ok)) := by
  rw [exec_refresh hr hi, capRxRemaining_armed hb]
  rwa [capRxRemaining_armed hb, countWord_toNat]

/-- A refresh of a tail that is already where the batch says. -/
theorem refreshTail_of_eq {r : Word} (h : s.rxTail = idxOf (ringAdd s.rxOrg.toNat (s.rxSize.toNat - r.toNat) s.params.rxCap)) :
    s.refreshTail r = s := by
  rw [State.refreshTail, ← h]

theorem exec_refresh_settled {i : Instr} {b : Batch} (hr : i = .idleLine ∨ i = .rxHalf) (hi : s.inited = true)
    (hb : s.env.rxBatch = some b) (hle : b.rem.toNat ≤ s.rxSize.toNat)
    (ht : s.rxTail = idxOf (ringAdd s.rxOrg.toNat (s.rxSize.toNat - (countWord b.rem).toNat) s.params.rxCap)) :
    exec i s = .next ((s.logCall .rxRemaining 0#24 0#24 (countWord b.rem)).answerIrq (codeWord .ok)) := by
  rw [exec_refresh_armed hr hi hb hle, refreshTail_of_eq]
  exact ht

theorem exec_rxComplete_progress (hi : s.inited = true) (hle : (capRxRemaining s).1.toNat ≤ s.rxSize.toNat)
    (h0 : (capRxRemaining s).1 ≠ 0#32) : exec .rxComplete s =
      .next (((capRxRemaining s).2.refreshTail (capRxRemaining s).1).answerIrq (codeWord .ok)) := by
  simp only [exec, execRxComplete, whenInited_true hi, refreshAction_of_le hle, if_pos h0]

theorem exec_rxComplete_boundary (hi : s.inited = true) (h0 : (capRxRemaining s).1 = 0#32) : exec .rxComplete s =
    .next ((rearm ((capRxRemaining s).2.refreshTail (capRxRemaining s).1)).2.answerIrq
      (rearm ((capRxRemaining s).2.refreshTail (capRxRemaining s).1)).1) := by
  have hle : (capRxRemaining s).1.toNat ≤ s.rxSize.toNat := by simp [h0]
  simp only [exec, execRxComplete, whenInited_true hi, refreshAction_of_le hle, h0, ne_eq, not_true_eq_false, if_false]

theorem rearm_failed (he : isErr s.choice.resp = true) : rearm s = (s.choice.resp,
    (capStartRx (idxOf (ringAdd s.rxOrg.toNat s.rxSize.toNat s.params.rxCap)) (idxOf s.params.rxCap) s).2) := by
  obtain ⟨-, e⟩ | ⟨h0, -⟩ := rearm_cases s
  · exact e
  · rw [he] at h0; cases h0

theorem rearm_started (he : isErr s.choice.resp = false) : rearm s = (codeWord .ok,
    { (capStartRx (idxOf (ringAdd s.rxOrg.toNat s.rxSize.toNat s.params.rxCap)) (idxOf s.params.rxCap) s).2 with
      rxOrg := idxOf (ringAdd s.rxOrg.toNat s.rxSize.toNat s.params.rxCap)
      rxSize := idxOf s.params.rxCap }) := by
  obtain ⟨h0, -⟩ | ⟨-, e⟩ := rearm_cases s
  · rw [he] at h0; cases h0
  · exact e

/-! Who starts a batch (spec/41_rx_engine.md R163 (d)) -/

theorem continueAction_noRxStart (s : State) :
    ∃ made, NewCalls s (continueAction s).2 made ∧ ∀ c ∈ made, c.cap ≠ .startRx := by
  rcases continueAction_cases s with ⟨-, e⟩ | ⟨-, -, -, e⟩ | ⟨-, -, -, e⟩ <;> rw [e]
  · exact ⟨[], rfl, by simp⟩
  · exact ⟨[_], rfl, by simp⟩
  · exact ⟨[_], rfl, by simp⟩

/-- An operation makes no `Cap.startRx`, or it is an INIT of an Uninitialised block or an RX_COMPLETE at a boundary. -/
theorem exec_startRx {i : Instr} (hx : exec i s = .next t) :
    (∃ made, NewCalls s t made ∧ ∀ c ∈ made, c.cap ≠ .startRx) ∨
    (∃ m, i = .init m ∧ s.inited = false) ∨ (i = .rxComplete ∧ (capRxRemaining s).1 = 0#32) := by
  cases exec_effect hx with
  | initFailed m hu | initialised m hu => exact .inr (.inl ⟨m, rfl, hu⟩)
  | rearmed _ h0 => exact .inr (.inr ⟨rfl, h0⟩)
  | continued | kicked | rolledBack => exact .inl (continueAction_noRxStart s)
  | credited => exact .inl (continueAction_noRxStart s.creditRun)
  | refreshed | readRefreshed => exact .inl ⟨[_], capRxRemaining_calls s, by simp⟩
  | aborted => exact .inl ⟨[_], rfl, by simp⟩
  | tornDown => exact .inl ⟨[_, _], rfl, by simp⟩
  | clockRead | timedOut => exact .inl ⟨[_], rfl, by simp⟩
  | _ => exact .inl ⟨[], rfl, by simp⟩

/-- What an RX_COMPLETE leaves whose last call started a batch: the whole batch remaining, the tail at its origin. -/
theorem exec_rxComplete_rearmed {c : CapCall} (hi : s.inited = true) (hx : exec .rxComplete s = .next t)
    (hc : t.calls.head? = some c) (hstart : c.cap = .startRx) (hok : isErr c.resp = false) :
    t.inited = true ∧ t.env.rxBatch = some ⟨t.rxOrg, t.rxSize, t.rxSize⟩ ∧ t.rxTail = t.rxOrg := by
  obtain ⟨hu, -⟩ | ⟨-, -, ⟨-, rfl⟩ | ⟨-, rfl⟩⟩ := execRxComplete_next hx
  · rw [hi] at hu; cases hu
  · rw [State.answerIrq_calls, State.refreshTail_calls, capRxRemaining_calls] at hc
    cases hc
    cases hstart
  · rcases rearm_cases ((capRxRemaining s).2.refreshTail 0#32) with ⟨he, e⟩ | ⟨he, e⟩ <;> rw [e] at hc ⊢
    · cases hc
      rw [he] at hok; cases hok
    · rw [choice_refreshTail] at he
      simp [capStartRx_env, he, hi]

/-- An RX_COMPLETE that finds a whole batch remaining only refreshes, and the tail stays. -/
theorem exec_rxComplete_fresh {b : Batch} (h : Sound s) (hi : s.inited = true) (hb : s.env.rxBatch = some b)
    (hfull : b.rem = s.rxSize) (htail : s.rxTail = s.rxOrg) : exec .rxComplete s =
      .next ((s.logCall .rxRemaining 0#24 0#24 (countWord b.rem)).answerIrq (codeWord .ok)) := by
  have hcap := rxCap_range h.params
  have hsize := (h.rx hi).size_cap
  have horg : s.rxOrg.toNat < s.params.rxCap := by
    rw [(h.rx hi).org_zero]
    show 0 < s.params.rxCap
    omega
  have hrem : (capRxRemaining s).1.toNat = s.rxSize.toNat := by rw [capRxRemaining_armed hb, countWord_toNat, hfull]
  have h0 : (capRxRemaining s).1 ≠ 0#32 := fun e => by
    have hzero : s.rxSize.toNat = 0 := by rw [← hrem, e]; rfl
    omega
  rw [exec_rxComplete_progress hi (Nat.le_of_eq hrem) h0, capRxRemaining_armed hb, refreshTail_of_eq]
  rw [countWord_toNat, hfull, State.logCall_rxOrg, State.logCall_rxSize, Nat.sub_self, State.logCall_params, ringAdd_zero horg,
    idxOf_toNat_self]
  exact htail

end Sys2Proof.Machine

namespace Sys2Proof.Proofs

open Sys2Proof.Machine

/-- Settles O27: IDLE_LINE and RX_HALF Uninitialised and with an answer in range. -/
theorem refreshDerivesTheTail : Obligations.RefreshDerivesTheTail := by
  intro i s hr call
  refine ⟨fun hu => ?_, fun hi hle => ?_⟩
  · obtain rfl | rfl := hr <;> exact exec_before_init hu nofun nofun
  · rw [exec_refresh hr hi hle, answerIrq_of_out (o := s.out) (by simp), refreshed_eq]
    rfl

/-- Settles O29: every caller of RefreshAction stops where it gives nothing. -/
theorem remainingOutOfRangeStops : Obligations.RemainingOutOfRangeStops := by
  intro i s hi hlt hcaller
  have hnone : refreshAction s = none := refreshAction_none.2 hlt
  rcases hcaller with rfl | rfl | rfl | ⟨m, rfl, hq⟩
  · simp [exec, execIdleLine, refreshAndAnswer, hi, hnone]
  · simp [exec, execRxHalf, refreshAndAnswer, hi, hnone]
  · simp [exec, execRxComplete, hi, hnone]
  · simp [exec, execRead, readR1, hq, hi, hnone]

/-- Settles O30: progress, a boundary whose rearm fails, and one whose rearm succeeds. -/
theorem rxCompleteRearmsAtTheBoundary : Obligations.RxCompleteRearmsAtTheBoundary := by
  intro s call u org arm
  have hu : (capRxRemaining s).2.refreshTail (capRxRemaining s).1 = u := refreshed_eq s
  have hout : u.out = s.out := capRxRemaining_out s
  have horg : idxOf (ringAdd u.rxOrg.toNat u.rxSize.toNat u.params.rxCap) = org := by simp [org, u, call, ringAdd]
  have hcap : u.params.rxCap = s.params.rxCap := by simp [u, call]
  refine ⟨fun hu => exec_before_init hu nofun nofun, fun hi hle h0 => ?_, fun hi h0 he => ?_, fun hi h0 he => ?_⟩
  · rw [exec_rxComplete_progress hi hle h0, hu, answerIrq_of_out hout]
    rfl
  · rw [exec_rxComplete_boundary hi h0, hu, rearm_failed he, horg, hcap]
    exact congrArg _ (answerIrq_of_out (u := arm.2) hout _)
  · rw [exec_rxComplete_boundary hi h0, hu, rearm_started he, horg, hcap]
    exact congrArg _ (answerIrq_of_out (u := { arm.2 with rxOrg := org, rxSize := idxOf s.params.rxCap }) hout _)

/-- Settles O32: what RefreshAction leaves, with READ at R2. -/
theorem readRefreshesFirst : Obligations.ReadRefreshesFirst := by
  intro m s hq call
  refine ⟨fun hu => exec_before_init hu nofun fun _ => hq, fun hi hle => ?_⟩
  rw [exec_read_r1 hq hi hle, refreshed_eq]
  rfl

/-- Settles O33: the two ends of R2, and R3's copy byte by byte. -/
theorem readCountsThenCopies : Obligations.ReadCountsThenCopies := by
  refine ⟨fun m s hq => ⟨fun hn => ?_, fun hn => ?_⟩, fun m hd n s h hq => ?_⟩
  · rw [exec_read_r2 hq, readR2, if_pos hn, setShort_decide]
    rfl
  · rw [exec_read_r2 hq, readR2, if_neg hn]
    rfl
  · obtain ⟨-, hhead, hcap⟩ := h.atR3 hq
    have hlen := ringRead_length .rxBuf s.rxBuf hd.toNat n.toNat s.params.rxCap
    refine ⟨_, exec_read_r3 hq (ringInRange_of_lt hhead (Nat.le_of_lt hcap)), hlen, fun i hi => ?_⟩
    rw [List.getElem?_eq_getElem (hlen.symm ▸ hi), ringRead_getElem hhead (Nat.le_of_lt hcap)]

/-- Settles O34: R4 has one outcome. -/
theorem readReleasesThenAnswers : Obligations.ReadReleasesThenAnswers := by
  intro m hd n dst s hq
  rw [exec_read_r4 hq, readR4, isShort, setShort_decide]
  rfl

/-- Settles O36: what R3 counted and copied is what R4 answers. -/
theorem readCountIsBounded : Obligations.ReadCountIsBounded := by
  intro m hd n dst s h hq
  obtain ⟨-, hm, hcap, hlen⟩ := h.atR4 hq
  refine ⟨_, countWord n, exec_read_r4 hq, rfl, ?_, ?_⟩ <;> rw [countWord_toNat]
  · exact hlen.symm
  · omega

/-- Settles O28: the second refresh asks the same batch and puts the tail where it is. -/
theorem refreshTwiceIsOnce : Obligations.RefreshTwiceIsOnce := by
  intro i s t hr hi hb hx
  obtain ⟨b, hb⟩ := Option.ne_none_iff_exists'.1 hb
  have hle : b.rem.toNat ≤ s.rxSize.toNat := by
    by_contra hgt
    have hout : s.rxSize.toNat < (capRxRemaining s).1.toNat := by simpa [capRxRemaining_armed hb, countWord_toNat] using hgt
    rw [remainingOutOfRangeStops i s hi hout (hr.imp_right .inl)] at hx
    cases hx
  have ht := Host.Outcome.next.inj (hx.symm.trans (exec_refresh_armed hr hi hb hle))
  have hit : t.inited = true := ht ▸ hi
  have hbt : t.env.rxBatch = some b := ht ▸ hb
  have hlet : b.rem.toNat ≤ t.rxSize.toNat := ht ▸ hle
  exact ⟨_, exec_refresh_settled hr hit hbt hlet (by simp [ht])⟩

/-- Settles O31: of the effects of an operation only INIT's and the rearm start a batch, and a batch just started has its whole
length remaining. -/
theorem rearmOncePerBoundary : Obligations.RearmOncePerBoundary := by
  refine ⟨fun i s t new hx hn ⟨c, hc, hstart⟩ => ?_, fun s t c h hi hx hc hstart hok => ?_⟩
  · obtain ⟨made, hm, hno⟩ | hstarts := exec_startRx hx
    · obtain rfl : new = made := List.append_cancel_right (hn.symm.trans hm)
      exact absurd hstart (hno c hc)
    · exact hstarts
  · have hs := (exec_keeps_inv h hx).sound
    obtain ⟨hit, hb, htail⟩ := exec_rxComplete_rearmed hi hx hc hstart hok
    exact ⟨_, rfl, exec_rxComplete_fresh hs hit hb rfl htail⟩

end Sys2Proof.Proofs

/-! The received stream (spec/41_rx_engine.md R160, R163 (c)): what has been handed out, followed by what is unread. -/

namespace Sys2Proof.Machine

variable {s t : State}

/-- From `s` to `t` the tail and READ's copy stayed exact, the bytes `arrived` came in over the line, and the bytes `handed` were
taken from the oldest end of what was unread then. -/
structure RxKept (s t : State) (handed arrived : List Byte) : Prop where
  exact : RxExact t
  line : t.env.rxLine = s.env.rxLine ++ arrived
  bytes : handed ++ unreadBytes t = unreadBytes s ++ arrived

/-- A step may have taken its move off the schedule first, which is no part of the received stream. -/
theorem RxKept.of_start {u : State} {handed arrived : List Byte} (hk : RxKept u t handed arrived)
    (hl : u.env.rxLine = s.env.rxLine) (hb : unreadBytes u = unreadBytes s) : RxKept s t handed arrived :=
  ⟨hk.exact, hl ▸ hk.line, hb ▸ hk.bytes⟩

/-- Where READ has neither counted nor copied there is nothing to be exact about but the tail. -/
theorem RxExact.of_tail (ht : t.inited = true → ringDist t.rxHead.toNat t.rxTail.toNat t.params.rxCap ≤ unreadCount t)
    (h3 : ∀ m h n, t.appSeq ≠ .readR3 m h n) (h4 : ∀ m h n d, t.appSeq ≠ .readR4 m h n d) : RxExact t :=
  ⟨ht, fun m h n hq => absurd hq (h3 m h n), fun m h n d hq => absurd hq (h4 m h n d)⟩

/-- An Uninitialised block has no operation in progress. -/
theorem RxExact.of_uninit (h : Inv t) (hu : t.inited = false) : RxExact t := by
  have hq : t.appSeq = .idle := by
    by_contra hq
    exact absurd (hu.symm.trans (h.seqInited hq)) (by decide)
  exact .of_tail (by simp [hu]) (by simp [hq]) (by simp [hq])

theorem unreadCount_lt (h : Sound s) (hi : s.inited = true) : unreadCount s < s.params.rxCap :=
  ringDist_lt (h.rx hi).head_lt (rxFront_lt h hi)

/-! Steps that move neither the head nor ENV's front -/

/-- Nothing arrives and nothing is released between the two states. -/
structure RxStill (s t : State) : Prop where
  params : t.params = s.params
  rxBuf : t.rxBuf = s.rxBuf
  rxHead : t.rxHead = s.rxHead
  rxLine : t.env.rxLine = s.env.rxLine

theorem FollowsFront.front_of_still (hf : FollowsFront s t) (h : Sound s) (hi : s.inited = true)
    (hl : t.env.rxLine = s.env.rxLine) : rxFront t = rxFront s := by
  rw [hf.front, hl, Nat.sub_self, ringAdd_zero (rxFront_lt h hi)]

theorem unread_of_still (e : RxStill s t) (hf : rxFront t = rxFront s) :
    unreadCount t = unreadCount s ∧ unreadBytes t = unreadBytes s := by
  have hc : unreadCount t = unreadCount s := by simp only [unreadCount, e.params, e.rxHead, hf]
  exact ⟨hc, by simp only [unreadBytes, hc, e.params, e.rxBuf, e.rxHead]⟩

/-- A refresh only moves the tail on, so what READ has counted and copied is still there. -/
theorem RxKept.of_still (h : Sound s) (hi : s.inited = true) (he : RxExact s) (hf : FollowsFront s t) (e : RxStill s t)
    (h3 : ∀ m h n, t.appSeq = .readR3 m h n → s.appSeq = .readR3 m h n)
    (h4 : ∀ m h n d, t.appSeq = .readR4 m h n d → s.appSeq = .readR4 m h n d) : RxKept s t [] [] := by
  obtain ⟨hcount, hbytes⟩ := unread_of_still e (hf.front_of_still h hi e.rxLine)
  have hold := he.tail hi
  have htail : ringDist s.rxHead.toNat s.rxTail.toNat s.params.rxCap ≤ ringDist s.rxHead.toNat t.rxTail.toNat s.params.rxCap ∧
      ringDist s.rxHead.toNat t.rxTail.toNat s.params.rxCap ≤ unreadCount s := by
    rcases hf.tail with ht | ht <;> rw [ht]
    · exact ⟨Nat.le_refl _, hold⟩
    · exact ⟨hold, Nat.le_refl _⟩
  obtain ⟨hgrown, hle⟩ := htail
  refine ⟨⟨fun _ => ?_, fun m hd n hq => ?_, fun m hd n d hq => ?_⟩, by simp [e.rxLine], by simp [hbytes]⟩
  · rw [e.params, e.rxHead, hcount]
    exact hle
  · rw [e.params, e.rxHead]
    exact (he.counted m hd n (h3 m hd n hq)).trans hgrown
  · obtain ⟨hn, hd⟩ := he.copied m _ n d (h4 m _ n d hq)
    rw [e.params, e.rxHead, e.rxBuf]
    exact ⟨hn.trans hgrown, hd⟩

/-! READ's steps (spec/41_rx_engine.md R156, R157) -/

/-- Standing at a further step moves nothing, so the bytes are as they were. -/
theorem rxKept_standAt {q : AppSeq} (he : RxExact (s.standAt q)) : RxKept s (s.standAt q) [] [] :=
  ⟨he, by simp, (List.append_nil _).symm⟩

/-- R2 counts no more than the tail shows. -/
theorem rxExact_counted {m : Idx} (hi : s.inited = true) (he : RxExact s) :
    RxExact (s.standAt (.readR3 m s.rxHead (idxOf (min m.toNat (rxAvail s.params s.rxHead s.rxTail))))) := by
  have hm := m.isLt
  refine ⟨fun _ => he.tail hi, fun m' hd n hq => ?_, fun _ _ _ _ hq => by cases hq⟩
  cases hq
  rw [idxOf_toNat (by omega)]
  exact Nat.min_le_right _ _

/-- R3 copies what R2 counted. -/
theorem rxExact_copiedOut {m hd n : Idx} (he : RxExact s) (hq : s.appSeq = .readR3 m hd n) :
    RxExact (s.standAt (.readR4 m hd n (ringRead .rxBuf s.rxBuf hd.toNat n.toNat s.params.rxCap))) := by
  refine ⟨fun hi => he.tail hi, fun _ _ _ hq' => (by cases hq'), fun m' hd' n' d hq' => ?_⟩
  cases hq'
  exact ⟨he.counted m hd n hq, rfl⟩

/-- The `n` oldest unread bytes, and the rest of them from where these end. -/
theorem unreadBytes_split {n : Nat} (h : Sound s) (hi : s.inited = true) (hn : n ≤ unreadCount s) :
    unreadBytes s = ringRead .rxBuf s.rxBuf s.rxHead.toNat n s.params.rxCap ++
      ringRead .rxBuf s.rxBuf (ringAdd s.rxHead.toNat n s.params.rxCap) (unreadCount s - n) s.params.rxCap := by
  have hlt := unreadCount_lt h hi
  rw [← ringRead_append (h.rx hi).head_lt (by omega), Nat.add_sub_cancel' hn, unreadBytes]

/-- R4 hands out the oldest unread bytes and moves the head past them. -/
theorem rxKept_released {m hd n : Idx} {dst : List Byte} (h : Inv s) (he : RxExact s) (hq : s.appSeq = .readR4 m hd n dst)
    (f : BitVec 8) (v : Word) :
    RxKept s ({ s with rxHead := idxOf (ringAdd hd.toNat n.toNat s.params.rxCap), flags := f }.answerApp v dst) dst [] := by
  have hs := h.sound
  have hi := h.seqInited (by simp [hq])
  obtain ⟨rfl, -, -, -⟩ := h.atR4 hq
  obtain ⟨hn, hdst⟩ := he.copied m _ n dst hq
  have htail := he.tail hi
  have hnu : n.toNat ≤ unreadCount s := hn.trans htail
  have hhead : (idxOf (ringAdd s.rxHead.toNat n.toNat s.params.rxCap)).toNat = ringAdd s.rxHead.toNat n.toNat s.params.rxCap :=
    idxOf_ringAdd_toNat (rxCap_range h.params)
  have hcount : ringDist (ringAdd s.rxHead.toNat n.toNat s.params.rxCap) (rxFront s) s.params.rxCap = unreadCount s - n.toNat :=
    ringDist_add_left (hs.rx hi).head_lt (rxFront_lt hs hi) hnu
  refine ⟨.of_tail (fun _ => ?_) (by simp) (by simp), (List.append_nil _).symm, ?_⟩
  · show ringDist (idxOf _).toNat s.rxTail.toNat s.params.rxCap ≤ ringDist (idxOf _).toNat (rxFront s) s.params.rxCap
    rw [hhead, hcount, ringDist_add_left (hs.rx hi).head_lt (hs.rx hi).tail_lt hn]
    exact Nat.sub_le_sub_right htail _
  · show dst ++ ringRead .rxBuf s.rxBuf (idxOf _).toNat (ringDist (idxOf _).toNat (rxFront s) s.params.rxCap) s.params.rxCap = _
    rw [hhead, hcount, hdst, ← unreadBytes_split hs hi hnu, List.append_nil]

/-! Arrivals (spec/43_capability_calls.md R211) -/

theorem ringRead_one {sp : Space} {m : Memory} {a c : Nat} (ha : a < c) : ringRead sp m a 1 c = [readByte sp m a] :=
  ringRead_contiguous ha

/-- A byte stored past the first `n` bytes of a ring leaves them alone. -/
theorem ringRead_store_past {sp : Space} {m : Memory} {a n k c : Nat} {b : Byte} (ha : a < c) (hn : n ≤ k) (hk : k < c) :
    ringRead sp (m.store (ringAdd a k c) b) a n c = ringRead sp m a n c := by
  refine ringRead_congr ha (hn.trans (Nat.le_of_lt hk)) fun i hi => ?_
  have hother : ringAdd a i c ≠ ringAdd a k c := fun e => by
    have hdist := ringDist_ringAdd (k := i) ha (by omega)
    rw [e, ringDist_ringAdd ha hk] at hdist
    omega
  rw [readByte_store, if_neg hother]

/-- An arriving byte goes to ENV's front, the slot just past the unread bytes. -/
theorem arrivalSlot_eq {x : Batch} (h : Sound s) (hi : s.inited = true) (hx : s.env.rxBatch = some x)
    (hslot : x.off.toNat + (x.len.toNat - x.rem.toNat) < s.params.rxCap) :
    x.off.toNat + (x.len.toNat - x.rem.toNat) = ringAdd s.rxHead.toNat (unreadCount s) s.params.rxCap := by
  obtain ⟨y, hy, hoff, hlen, -⟩ := (h.rx hi).batch
  cases hx.symm.trans hy
  rw [unreadCount, ringAdd_ringDist (h.rx hi).head_lt (rxFront_lt h hi)]
  rw [hoff, hlen] at hslot
  simp only [rxFront, hx, hoff, hlen, ringAdd_of_lt hslot]

theorem unreadCount_arrived {x : Batch} {b : Byte} (h : Sound s) (hi : s.inited = true) (hx : s.env.rxBatch = some x)
    (h0 : x.rem ≠ 0#24) (hroom : unreadCount s + 1 < s.params.rxCap) :
    unreadCount (storeArrival x b s) = unreadCount s + 1 := by
  have hfront := (followsFront_arrived (b := b) h hi hx h0).front
  rw [show (storeArrival x b s).env.rxLine.length - s.env.rxLine.length = 1 by simp [storeArrival]] at hfront
  rw [unreadCount, hfront]
  exact ringDist_add_right (h.rx hi).head_lt (rxFront_lt h hi) hroom

/-- A byte that finds room joins the unread ones at their newest end. -/
theorem rxKept_arrived {x : Batch} {b : Byte} (h : Inv s) (hi : s.inited = true) (he : RxExact s)
    (hx : s.env.rxBatch = some x) (h0 : x.rem ≠ 0#24) (hslot : x.off.toNat + (x.len.toNat - x.rem.toNat) < s.params.rxCap)
    (hroom : unreadCount s + 1 < s.params.rxCap) : RxKept s (storeArrival x b s) [] [b] := by
  have hhead := (h.sound.rx hi).head_lt
  have hcount := unreadCount_arrived (b := b) h.sound hi hx h0 hroom
  have htail := he.tail hi
  have hbuf : (storeArrival x b s).rxBuf = s.rxBuf.store (ringAdd s.rxHead.toNat (unreadCount s) s.params.rxCap) b := by
    rw [← arrivalSlot_eq h.sound hi hx hslot]
    rfl
  have hkept {n : Nat} (hn : n ≤ unreadCount s) : ringRead .rxBuf (storeArrival x b s).rxBuf s.rxHead.toNat n s.params.rxCap =
      ringRead .rxBuf s.rxBuf s.rxHead.toNat n s.params.rxCap := by
    rw [hbuf, ringRead_store_past hhead hn (by omega)]
  refine ⟨⟨fun _ => ?_, fun m hd n hq => he.counted m hd n hq, fun m hd n d hq => ?_⟩, rfl, ?_⟩
  · rw [hcount]
    exact htail.trans (Nat.le_succ _)
  · obtain ⟨rfl, -⟩ := h.atR4 hq
    obtain ⟨hn, hd⟩ := he.copied m _ n d hq
    exact ⟨hn, hd.trans (hkept (hn.trans htail)).symm⟩
  · calc unreadBytes (storeArrival x b s)
      _ = ringRead .rxBuf (storeArrival x b s).rxBuf s.rxHead.toNat (unreadCount s + 1) s.params.rxCap := by
        rw [← hcount]; rfl
      _ = unreadBytes s ++ [b] := by
        rw [ringRead_append hhead (by omega), hkept (Nat.le_refl _), ringRead_one (ringAdd_lt (by omega)), hbuf,
          readByte_store, if_pos rfl, unreadBytes]

/-! What a READ hands out, step by step -/

/-- While a READ stands at R4 no operation ends it but its own last step (spec/70_reset_and_hazards.md R284). -/
theorem exec_atR4 {i : Instr} {m hd n : Idx} {dst : List Byte} (hq : s.appSeq = .readR4 m hd n dst) (hx : exec i s = .next t) :
    t.appSeq = s.appSeq ∨ t = readR4 m hd n dst s := by
  by_cases hr : ∃ k, i = .read k
  · obtain ⟨k, rfl⟩ := hr
    exact .inr (Host.Outcome.next.inj (hx.symm.trans (exec_read_r4 hq)))
  · cases hp : i.port with
    | irq => exact .inl (Proofs.irqStepsLeaveAppAlone i s t hp hx).1
    | app =>
      rw [exec_busy hp (by simp [hq]) (by simp [hq]) (fun k e => absurd ⟨k, e⟩ hr) (by simp [hq])] at hx
      cases hx

theorem appStep_inProgress {i : Instr} (hc : s.appSeq.current? = some i) : appStep s = exec i s := by simp only [appStep, hc]

theorem env_appSeq (he : EnvEffect s t) : t.appSeq = s.appSeq := by cases he <;> rfl

theorem Event.instr_port (e : Event) : e.instr.port = .irq := by cases e <;> rfl

theorem runWord_irq_appSeq {cw : Word} (h : runWord .irq cw s = .next t) : t.appSeq = s.appSeq := by
  obtain ⟨i, hd, hx⟩ | ⟨c, -, rfl⟩ := runWord_next h
  · exact (Proofs.irqStepsLeaveAppAlone i s t (decode_port hd) hx).1
  · rfl

/-- A step leaves a READ at R4 or is the READ's last. -/
theorem step_atR4 {m hd n : Idx} {dst : List Byte} (hq : s.appSeq = .readR4 m hd n dst) (hreset : NoReset s)
    (hstep : step s = .next t) : t.appSeq = s.appSeq ∨ ∃ rest, t = readR4 m hd n dst (s.scheduled rest s.appSrc) := by
  obtain ⟨-, hidle, -⟩ | ⟨-, i, hc, hx⟩ | ⟨inp, rest, hin, h⟩ := step_next hstep
  · rw [hq] at hidle; cases hidle
  · exact (exec_atR4 hq hx).imp_right fun e => ⟨s.inputs, e⟩
  · cases inp with
    | app cw src =>
      obtain ⟨hidle, -⟩ := whenIdle_next h
      exact absurd (hq.symm.trans hidle) (by simp)
    | appStep =>
      have hx : exec (.read m) (s.scheduled rest s.appSrc) = .next t := by
        rw [← h, runInput, appStep_inProgress (i := .read m) (by simp [hq, AppSeq.current?])]
        rfl
      exact (exec_atR4 (s := s.scheduled rest s.appSrc) hq hx).imp_right fun e => ⟨rest, e⟩
    | irq cw => exact .inl (runWord_irq_appSeq (s := s.scheduled rest s.appSrc) h)
    | take e =>
      simp only [runInput, takeEvent] at h
      split at h
      · exact .inl (Proofs.irqStepsLeaveAppAlone _ _ t e.instr_port h).1
      · cases h
    | env a => exact .inl (env_appSeq (s := s.scheduled rest s.appSrc) (envAct_effect (a := a) h))
    | reset => exact absurd (by rw [hin]; rfl) hreset

theorem handedBytes_eq_nil (h : ∀ m hd n d, s.appSeq = .readR4 m hd n d → t.appSeq ≠ .idle) : handedBytes s t = [] := by
  unfold handedBytes
  split
  · exact absurd ‹_› (h _ _ _ _ ‹_›)
  · rfl

/-- A step hands out bytes only as a READ's last. -/
theorem step_handed (hreset : NoReset s) (hstep : step s = .next t) : handedBytes s t = [] ∨
    ∃ m hd n dst rest, s.appSeq = .readR4 m hd n dst ∧ t = readR4 m hd n dst (s.scheduled rest s.appSrc) := by
  by_cases hq : ∃ m hd n dst, s.appSeq = .readR4 m hd n dst
  · obtain ⟨m, hd, n, dst, hq⟩ := hq
    obtain hsame | ⟨rest, ht⟩ := step_atR4 hq hreset hstep
    · exact .inl (handedBytes_eq_nil fun _ _ _ _ _ => by simp [hsame, hq])
    · exact .inr ⟨m, hd, n, dst, rest, hq, ht⟩
  · exact .inl (handedBytes_eq_nil fun m hd n d e => absurd ⟨m, hd, n, d, e⟩ hq)

/-! Every kind of step -/

/-- What every operation but the last step of a READ does to the received stream. -/
theorem exec_rxKept {i : Instr} (h : Inv s) (he : RxExact s) (hi : s.inited = true) (ht : t.inited = true)
    (hx : exec i s = .next t) (hb : handedBytes s t = []) : RxKept s t [] [] := by
  have hf := exec_followsFront h.sound hi ht hx
  cases exec_effect hx with
  | initFailed m hu | initialised m hu => rw [hi] at hu; cases hu
  | tornDown => cases ht
  | counted m m' hq => exact rxKept_standAt (rxExact_counted hi he)
  | copiedOut m m' hd n hq => exact rxKept_standAt (rxExact_copiedOut he hq)
  | released m m' hd n dst hq b =>
    obtain rfl : dst = [] := by simpa [handedBytes, hq] using hb
    exact rxKept_released h he hq _ _
  | _ => exact .of_still h.sound hi he hf ⟨by simp, by simp, by simp, by simp⟩ (by simp) (by simp)

theorem env_rxKept (h : Inv s) (he : RxExact s) (hi : s.inited = true) (hx : EnvEffect s t) (hroom : ArrivalHasRoom s t) :
    ∃ arrived, RxKept s t [] arrived := by
  have hf := env_followsFront h.sound hi hx
  cases hx with
  | arrived x b hx h0 hslot => exact ⟨[b], rxKept_arrived h hi he hx h0 hslot (hroom hi (by simp [storeArrival]))⟩
  | _ => exact ⟨[], .of_still h.sound hi he hf ⟨rfl, rfl, rfl, rfl⟩ (fun _ _ _ => id) (fun _ _ _ _ => id)⟩

theorem rxKept_answer (h : Inv s) (he : RxExact s) (hi : s.inited = true) (p : Port) (v : Word) :
    RxKept s (s.answer p v) [] [] := by
  cases p
  · exact .of_still h.sound hi he (.of_still h.sound hi ⟨rfl, rfl, rfl, rfl, rfl⟩ (.inl rfl)) ⟨rfl, rfl, rfl, rfl⟩
      (by simp [State.answer]) (by simp [State.answer])
  · exact .of_still h.sound hi he (.of_still h.sound hi ⟨rfl, rfl, rfl, rfl, rfl⟩ (.inl rfl)) ⟨rfl, rfl, rfl, rfl⟩
      (fun _ _ _ => id) (fun _ _ _ _ => id)

theorem RxExact.scheduled (he : RxExact s) (rest : List Input) (src : List Byte) : RxExact (s.scheduled rest src) :=
  ⟨he.tail, he.counted, he.copied⟩

theorem RxExact.clearPend (he : RxExact s) (e : Event) : RxExact (s.clearPend e) := ⟨he.tail, he.counted, he.copied⟩

/-- What a step of an Initialised block does to the received stream. -/
theorem step_rxKept (h : Inv s) (he : RxExact s) (hreset : NoReset s) (hi : s.inited = true) (ht : t.inited = true)
    (hstep : step s = .next t) (hroom : ArrivalHasRoom s t) : ∃ arrived, RxKept s t (handedBytes s t) arrived := by
  rcases step_handed hreset hstep with hb | ⟨m, hd, n, dst, rest, hq, rfl⟩
  · rw [hb]
    cases step_effect hstep with
    | waits => exact ⟨[], he, by simp, by simp⟩
    | runs rest src hx =>
      exact ⟨[], (exec_rxKept (h.scheduled rest src) (he.scheduled rest src) hi ht hx hb).of_start rfl rfl⟩
    | rejects rest src p v =>
      exact ⟨[], (rxKept_answer (h.scheduled rest src) (he.scheduled rest src) hi p v).of_start rfl rfl⟩
    | takes rest e _ hx =>
      have hk := exec_rxKept ((h.scheduled rest _).clearPend e) ((he.scheduled rest _).clearPend e) hi ht hx hb
      exact ⟨[], hk.of_start rfl rfl⟩
    | env rest hx =>
      obtain ⟨arrived, hk⟩ := env_rxKept (h.scheduled rest _) (he.scheduled rest _) hi hx hroom
      exact ⟨arrived, hk.of_start rfl rfl⟩
    | resets rest hr => exact absurd hr hreset
  · have hb : handedBytes s (readR4 m hd n dst (s.scheduled rest s.appSrc)) = dst := by simp [handedBytes, hq, readR4]
    rw [hb]
    exact ⟨[], (rxKept_released (h.scheduled rest _) (he.scheduled rest _) hq _ _).of_start rfl rfl⟩

/-! The step that initialises the block (spec/42_device_lifecycle.md R181) -/

theorem exec_initialiser {i : Instr} (hu : s.inited = false) (hx : exec i s = .next t) (hi : t.inited = true) :
    ∃ m, i = .init m := by
  cases exec_effect hx with
  | initialised m => exact ⟨m, rfl⟩
  | _ => simp [hu] at hi

/-- Only an INIT that is presented initialises the block. -/
theorem step_initialiser (hu : s.inited = false) (hstep : step s = .next t) (hi : t.inited = true) :
    ∃ m rest src, exec (.init m) (s.scheduled rest src) = .next t := by
  have not_inited {u : State} (h : u.inited = s.inited) : ¬ u.inited = true := by simp [h, hu]
  cases step_effect hstep with
  | waits => exact absurd hi (not_inited rfl)
  | runs rest src hx =>
    obtain ⟨m, rfl⟩ := exec_initialiser (s := s.scheduled rest src) hu hx hi
    exact ⟨m, rest, src, hx⟩
  | rejects rest src p v => cases p <;> exact absurd hi (not_inited rfl)
  | takes rest e _ hx =>
    obtain ⟨m, hm⟩ := exec_initialiser (s := (s.scheduled rest _).clearPend e) hu hx hi
    have hp := e.instr_port
    rw [hm] at hp
    cases hp
  | env rest he => exact absurd hi (not_inited (env_inited (s := s.scheduled rest s.appSrc) he))
  | resets => cases hi

/-- INIT leaves both the head and the tail where ENV writes next. -/
theorem exec_init_rxEmpty {m : BitVec 6} (hu : s.inited = false) (hx : exec (.init m) s = .next t) (hi : t.inited = true) :
    t.env.rxLine = s.env.rxLine ∧ t.rxTail = t.rxHead ∧ rxFront t = t.rxHead.toNat ∧ t.appSeq = .idle := by
  cases exec_effect hx with
  | initialised _ _ _ he => simp [rxFront, capStartRx_env, he, ringAdd]
  | _ => simp [hu] at hi

theorem step_rxEmpty (hu : s.inited = false) (hstep : step s = .next t) (hi : t.inited = true) :
    t.env.rxLine = s.env.rxLine ∧ t.rxTail = t.rxHead ∧ rxFront t = t.rxHead.toNat ∧ t.appSeq = .idle := by
  obtain ⟨m, rest, src, hx⟩ := step_initialiser hu hstep hi
  exact exec_init_rxEmpty (s := s.scheduled rest src) hu hx hi

/-- The hardware reset leaves the block Uninitialised (spec/70_reset_and_hazards.md R280). -/
theorem noReset_of_inited (hstep : step s = .next t) (hi : t.inited = true) : NoReset s := by
  intro hr
  obtain ⟨rest, hin⟩ : ∃ rest, s.inputs = .reset :: rest := by
    cases hs : s.inputs <;> simp_all
  rw [step_inputs hin] at hstep
  cases hstep
  cases hi

end Sys2Proof.Machine

namespace Sys2Proof.Proofs

open Sys2Proof.Machine

/-- Settles O54: an arrival adds at ENV's front, READ's last step takes from the head, every other step at most moves the tail on
to the front; INIT leaves nothing unread. -/
theorem receivedStreamInOrder : Obligations.ReceivedStreamInOrder := by
  refine ⟨fun s t h he hstep hroom => ?_, fun s t h he hreset hi ht hstep hroom => ?_, fun s t _ hu hstep hi => ?_⟩
  · have h' : Inv t := stepKeepsInv s t h hstep
    cases ht : t.inited
    · exact .of_uninit h' ht
    · cases hi : s.inited
      · obtain ⟨-, htail, -, hq⟩ := step_rxEmpty hi hstep ht
        exact .of_tail (fun _ => by simp [htail, ringDist_self]) (by simp [hq]) (by simp [hq])
      · obtain ⟨_, hk⟩ := step_rxKept h he (noReset_of_inited hstep ht) hi ht hstep hroom
        exact hk.exact
  · obtain ⟨arrived, hk⟩ := step_rxKept h he hreset hi ht hstep hroom
    exact ⟨arrived, hk.line, hk.bytes⟩
  · obtain ⟨hline, -, hfront, -⟩ := step_rxEmpty hu hstep hi
    refine ⟨hline, List.length_eq_zero_iff.1 ?_⟩
    rw [unreadBytes, ringRead_length, unreadCount, hfront, ringDist_self]

end Sys2Proof.Proofs

/-! A whole uninterrupted READ (spec/41_rx_engine.md R155 to R157). -/

namespace Sys2Proof.Machine

variable {s t : State}

/-- `s` once a READ that nothing interrupts has refreshed the tail from the batch `b` and gone on to stand at `q`. -/
def State.readingAt (b : Batch) (q : AppSeq) (src : List Byte) (rest : List Input) (s : State) : State :=
  ((s.scheduled rest src).logCall .rxRemaining 0#24 0#24 (countWord b.rem)).refreshTail (countWord b.rem) |>.standAt q

/-- What a READ of at most `m` bytes finds to copy. -/
def readCount (m : Idx) (s : State) : Nat := min m.toNat (unreadCount s)

/-- APP's place in such a READ when its copy is made. -/
def State.atRelease (m : Idx) (s : State) : AppSeq :=
  .readR4 m s.rxHead (idxOf (readCount m s)) ((unreadBytes s).take (readCount m s))

theorem readCount_toNat (m : Idx) (s : State) : (idxOf (readCount m s)).toNat = readCount m s :=
  idxOf_toNat (by have := m.isLt; unfold readCount; omega)

theorem countWord_readCount (m : Idx) (s : State) : countWord (idxOf (readCount m s)) = BitVec.ofNat 32 (readCount m s) := by
  have hlt : readCount m s < 2 ^ 32 := by have := m.isLt; unfold readCount; omega
  refine BitVec.eq_of_toNat_eq ?_
  rw [countWord_toNat, readCount_toNat, BitVec.toNat_ofNat, Nat.mod_eq_of_lt hlt]

theorem take_unreadBytes {n : Nat} (h : Sound s) (hi : s.inited = true) (hn : n ≤ unreadCount s) :
    (unreadBytes s).take n = ringRead .rxBuf s.rxBuf s.rxHead.toNat n s.params.rxCap := by
  rw [unreadBytes_split h hi hn, List.take_left' (ringRead_length ..)]

section
variable {b : Batch} {m : Idx} {src : List Byte} {rest rest' : List Input}

theorem readingAt_rxTail {q : AppSeq} (h : Sound s) (hi : s.inited = true) (hb : s.env.rxBatch = some b) :
    (s.readingAt b q src rest).rxTail.toNat = rxFront s := by
  rw [← refreshTail_eq_rxFront h hi, capRxRemaining_armed hb]
  rfl

theorem exec_read_refreshes (h : Sound s) (hq : s.appSeq = .idle) (hi : s.inited = true) (hb : s.env.rxBatch = some b) :
    exec (.read m) (s.scheduled rest src) = .next (s.readingAt b (.readR2 m) src rest) := by
  have hb' : (s.scheduled rest src).env.rxBatch = some b := hb
  obtain ⟨c, hc, -, hlen, hrem⟩ := (h.rx hi).batch
  cases hb.symm.trans hc
  rw [exec_read_r1 (s := s.scheduled rest src) hq hi, capRxRemaining_armed hb']
  · rfl
  · rw [capRxRemaining_armed hb', countWord_toNat]
    exact hlen ▸ hrem

theorem readR2_counts {n : Nat} (hn : min m.toNat (rxAvail s.params s.rxHead s.rxTail) = n) (h0 : n ≠ 0) :
    readR2 m s = s.standAt (.readR3 m s.rxHead (idxOf n)) := by
  rw [readR2, hn, if_neg h0]

theorem exec_read_counts (h : Sound s) (hi : s.inited = true) (hb : s.env.rxBatch = some b) (hn : readCount m s ≠ 0) :
    exec (.read m) { s.readingAt b (.readR2 m) src rest with inputs := rest' } =
      .next (s.readingAt b (.readR3 m s.rxHead (idxOf (readCount m s))) src rest') := by
  have havail : rxAvail s.params s.rxHead (s.readingAt b (.readR2 m) src rest).rxTail = unreadCount s := by
    rw [rxAvail, readingAt_rxTail h hi hb, unreadCount]
  rw [exec_read_r2 rfl]
  exact congrArg _ (readR2_counts (congrArg (min m.toNat) havail) hn)

theorem exec_read_copies (h : Sound s) (hi : s.inited = true) :
    exec (.read m) { s.readingAt b (.readR3 m s.rxHead (idxOf (readCount m s))) src rest with inputs := rest' } =
      .next (s.readingAt b (s.atRelease m) src rest') := by
  have hlt := unreadCount_lt h hi
  have hle : readCount m s ≤ unreadCount s := Nat.min_le_right _ _
  have hrange : ringInRange s.rxHead.toNat (idxOf (readCount m s)).toNat s.params.rxCap = true :=
    ringInRange_of_lt (h.rx hi).head_lt (by rw [readCount_toNat]; omega)
  have hcopy : ringRead .rxBuf s.rxBuf s.rxHead.toNat (idxOf (readCount m s)).toNat s.params.rxCap =
      (unreadBytes s).take (readCount m s) := by rw [readCount_toNat, take_unreadBytes h hi hle]
  rw [State.atRelease, ← hcopy]
  exact exec_read_r3 rfl hrange

end

/-- What a READ leaves alone. -/
theorem read_frame (m hd n : Idx) (dst : List Byte) (b : Batch) (q : AppSeq) (src : List Byte) (rest : List Input) (s : State) :
    let t := readR4 m hd n dst (s.readingAt b q src rest)
    t.rxBuf = s.rxBuf ∧ t.txBuf = s.txBuf ∧ t.txHead = s.txHead ∧ t.txTail = s.txTail ∧ t.txRun = s.txRun ∧
      t.txLen = s.txLen ∧ t.env = s.env ∧ t.inited = s.inited := by
  simp [readR4, State.readingAt, State.scheduled]

/-- From R1 to the state that R4 leaves. -/
theorem run_read {m : Idx} {b : Batch} {src : List Byte} {rest : List Input} (h : Sound s) (hq : s.appSeq = .idle)
    (hi : s.inited = true) (hb : s.env.rxBatch = some b)
    (hin : s.inputs = .app (encode (.read m)) src :: .appStep :: .appStep :: .appStep :: rest) (hn : readCount m s ≠ 0) :
    core.run 4 s = .next (readR4 m s.rxHead (idxOf (readCount m s)) ((unreadBytes s).take (readCount m s))
      (s.readingAt b (s.atRelease m) src rest)) := by
  have hrefresh : step s = .next (s.readingAt b (.readR2 m) src (.appStep :: .appStep :: .appStep :: rest)) := by
    rw [step_command (p := .app) hin fun _ => hq, runWord_ok (p := .app) (decode_encode (.read m))]
    exact exec_read_refreshes h hq hi hb
  refine Eq.trans (run_succ hrefresh) ?_
  refine Eq.trans (run_appStep rfl rfl (exec_read_counts h hi hb hn)) ?_
  refine Eq.trans (run_appStep rfl rfl (exec_read_copies h hi)) ?_
  exact run_appStep rfl rfl (exec_read_r4 rfl)

end Sys2Proof.Machine

namespace Sys2Proof.Proofs

open Sys2Proof.Machine

/-- Settles O35: with the tail at ENV's front the READ counts, copies and releases the oldest of all that is unread. -/
theorem uninterruptedRead : Obligations.UninterruptedRead := by
  intro m src s rest h hq hi hin n hn
  have hs := h.sound
  obtain ⟨b, hb, -⟩ := (hs.rx hi).batch
  have hcount : (idxOf (readCount m s)).toNat = n := readCount_toNat m s
  refine ⟨_, run_read hs hq hi hb hin hn, rfl, rfl, readingAt_rxTail (q := s.atRelease m) hs hi hb, ?_, ?_, ?_,
    read_frame ..⟩
  · exact (idxOf_ringAdd_toNat (rxCap_range h.params)).trans (by rw [hcount])
  · exact congrArg (fun w => (⟨.app, w, (unreadBytes s).take n⟩ :: s.out : List Result)) (countWord_readCount m s)
  · exact (shortOf_setShort _ _).trans (by rw [isShort, hcount])

end Sys2Proof.Proofs

/-! The device and its lifecycle (spec/42_device_lifecycle.md R181 to R187). First FLUSH, step by step, and what the moves of IRQ and
ENV that stand between its steps leave of APP's place. -/

namespace Sys2Proof.Machine

variable {s t : State}

/-! FLUSH, step by step (spec/42_device_lifecycle.md R185) -/

theorem exec_flush_f1 {m : Idx} (hq : s.appSeq = .idle) (hi : s.inited = true) : exec (.flush m) s = .next (flushF1 m s) := by
  simp only [exec, execFlush, hq, whenInited_true hi]

theorem exec_flush_f2 {m k : Idx} (hq : s.appSeq = .flushF2 m) : exec (.flush k) s = .next (flushF2 m s) := by
  simp only [exec, execFlush, hq]

theorem exec_flush_f3 {m k : Idx} {t0 : Timestamp} (hq : s.appSeq = .flushF3 m t0) :
    exec (.flush k) s = .next (flushF3 m t0 s) := by
  simp only [exec, execFlush, hq]

theorem flushF1_empty (m : Idx) (h : s.txHead = s.txTail) : flushF1 m s = s.answerApp (codeWord .ok) [] := if_pos h

theorem flushF1_unsupported (m : Idx) (h : s.txHead ≠ s.txTail) (ht : s.params.timeout = false) :
    flushF1 m s = s.answerApp (codeWord .notSupported) [] := by
  simp [flushF1, h, ht]

theorem flushF1_begins (m : Idx) (h : s.txHead ≠ s.txTail) (ht : s.params.timeout = true) :
    flushF1 m s = s.standAt (.flushF2 m) := by
  simp [flushF1, h, ht]

theorem flushF3_empty (m : Idx) (t0 : Timestamp) (h : s.txHead = s.txTail) : flushF3 m t0 s = s.answerApp (codeWord .ok) [] :=
  if_pos h

theorem flushF3_timedOut {m : Idx} {t0 : Timestamp} (h : s.txHead ≠ s.txTail) (he : m.toNat ≤ elapsed t0 s.env.now) :
    flushF3 m t0 s = (capNowMillis s).2.answerApp (codeWord .timeout) [] := by
  simp [flushF3, h, he]

theorem flushF3_again {m : Idx} {t0 : Timestamp} (h : s.txHead ≠ s.txTail) (he : elapsed t0 s.env.now < m.toNat) :
    flushF3 m t0 s = (capNowMillis s).2.standAt (.flushF3 m t0) := by
  simp [flushF3, h, Nat.not_le_of_lt he]

/-- With no time to wait the first pass of F3 is the last one. -/
theorem flushF3_zero (t0 : Timestamp) (s : State) :
    (flushF3 0#24 t0 s).appSeq = .idle ∧ (flushF3 0#24 t0 s).inputs = s.inputs ∧ (flushF3 0#24 t0 s).txHead = s.txHead ∧
    (flushF3 0#24 t0 s).txTail = s.txTail ∧ (flushF3 0#24 t0 s).env = s.env ∧
    (flushF3 0#24 t0 s).out = ⟨.app, if s.txHead = s.txTail then 0#32 else 0xFFFFFFFE#32, []⟩ :: s.out := by
  by_cases h : s.txHead = s.txTail
  · rw [flushF3_empty _ _ h, if_pos h]
    exact ⟨rfl, rfl, rfl, rfl, rfl, rfl⟩
  · rw [flushF3_timedOut h (Nat.zero_le _), if_neg h]
    exact ⟨rfl, rfl, rfl, rfl, rfl, rfl⟩

/-! Moves of IRQ and ENV (spec/60_exceptions.md R251): they take themselves off the schedule and leave APP's place alone -/

theorem exec_inputs {i : Instr} (h : exec i s = .next t) : t.inputs = s.inputs := by cases exec_effect h <;> simp

theorem env_inputs (he : EnvEffect s t) : t.inputs = s.inputs := by cases he <;> rfl

theorem exec_irq_keeps_place {i : Instr} (hp : i.port = .irq) (h : exec i s = .next t) :
    t.inputs = s.inputs ∧ t.appSeq = s.appSeq :=
  ⟨exec_inputs h, (Proofs.irqStepsLeaveAppAlone i s t hp h).1⟩

theorem runInput_between {x : Input} (hx : x.BetweenAppSteps) (h : runInput x s = .next t) :
    t.inputs = s.inputs ∧ t.appSeq = s.appSeq := by
  cases x with
  | app | appStep | reset => exact hx.elim
  | irq cw =>
    obtain ⟨i, hd, hi⟩ | ⟨c, -, rfl⟩ := runWord_next h
    · exact exec_irq_keeps_place (decode_port hd) hi
    · exact ⟨rfl, rfl⟩
  | take e =>
    simp only [runInput, takeEvent] at h
    split at h
    · exact exec_irq_keeps_place (s := s.clearPend e) e.instr_port h
    · cases h
  | env a =>
    have he : EnvEffect s t := envAct_effect (a := a) h
    exact ⟨env_inputs he, env_appSeq he⟩

theorem run_of_run_succ {k : Nat} {u : State} (h : core.run (k + 1) s = .next u) :
    ∃ t, step s = .next t ∧ core.run k t = .next u := by
  have hc : core.step s = step s := rfl
  simp only [Host.Core.run, hc] at h
  cases hs : step s with
  | next t => exact ⟨t, rfl, by rwa [hs] at h⟩
  | fault | refused => rw [hs] at h; cases h

/-- A run that begins with moves of IRQ and ENV comes past them with APP where it stood. -/
theorem run_between {rest : List Input} {k : Nat} {u : State} (moves : List Input) (hb : ∀ x ∈ moves, x.BetweenAppSteps)
    (hin : s.inputs = moves ++ rest) (h : core.run (moves.length + k) s = .next u) :
    ∃ t, t.inputs = rest ∧ t.appSeq = s.appSeq ∧ core.run k t = .next u := by
  induction moves generalizing s with
  | nil => exact ⟨s, hin, rfl, by simpa using h⟩
  | cons x moves ih =>
    rw [List.length_cons, Nat.add_right_comm] at h
    obtain ⟨s1, hs, h⟩ := run_of_run_succ h
    rw [step_inputs hin] at hs
    obtain ⟨hin1, hq1⟩ := runInput_between (hb x List.mem_cons_self) hs
    obtain ⟨t, ht, hq, hr⟩ := ih (fun y hy => hb y (List.mem_cons_of_mem x hy)) hin1 h
    exact ⟨t, ht, hq.trans hq1, hr⟩

/-- A step in which APP goes on with the operation in progress. -/
theorem step_appStep {i : Instr} {rest : List Input} (hin : s.inputs = .appStep :: rest) (hc : s.appSeq.current? = some i) :
    step s = exec i { s with inputs := rest } := by
  rw [step_inputs hin]
  exact appStep_inProgress hc

/-- A FLUSH on a non-empty ring, presented where timeouts are configured, waits at F2. -/
theorem step_flush_begins {m : Idx} {src : List Byte} {rest : List Input} (hq : s.appSeq = .idle) (hi : s.inited = true)
    (ht : s.params.timeout = true) (hne : s.txHead ≠ s.txTail) (hin : s.inputs = .app (encode (.flush m)) src :: rest) :
    step s = .next ((s.scheduled rest src).standAt (.flushF2 m)) := by
  rw [step_command (p := .app) hin fun _ => hq, runWord_ok (p := .app) (decode_encode (.flush m))]
  have hf1 : flushF1 m (s.scheduled rest src) = _ := flushF1_begins m hne ht
  rw [← hf1]
  exact exec_flush_f1 (s := s.scheduled rest src) hq hi

/-- From F1 to F3, past the moves between: APP stands at F3 with one APP step to come. -/
theorem run_flush_to_f3 {m : Idx} {src : List Byte} {between between' rest : List Input} {u : State} (hq : s.appSeq = .idle)
    (hi : s.inited = true) (ht : s.params.timeout = true) (hne : s.txHead ≠ s.txTail)
    (hb : ∀ x ∈ between ++ between', x.BetweenAppSteps)
    (hin : s.inputs = .app (encode (.flush m)) src :: (between ++ .appStep :: (between' ++ .appStep :: rest)))
    (hu : core.run (between.length + between'.length + 2) s = .next u) :
    u.inputs = .appStep :: rest ∧ ∃ t0, u.appSeq = .flushF3 m t0 := by
  rw [show between.length + between'.length + 2 = between.length + (between'.length + 1) + 1 by omega,
    run_succ (step_flush_begins hq hi ht hne hin)] at hu
  obtain ⟨s2, hin2, hq2, hu⟩ := run_between between (fun x hx => hb x (List.mem_append_left _ hx)) rfl hu
  rw [run_appStep (i := .flush m) hin2 (by rw [hq2]; rfl) (exec_flush_f2 hq2)] at hu
  obtain ⟨s3, hin3, hq3, hu⟩ := run_between (k := 0) between' (fun x hx => hb x (List.mem_append_right _ hx)) rfl hu
  cases hu
  exact ⟨hin3, _, hq3⟩

/-- With no move between, F1 and F2 change nothing that FLUSH's end depends on. -/
theorem run_flush_uninterrupted {m : Idx} {src : List Byte} {rest : List Input} (hq : s.appSeq = .idle) (hi : s.inited = true)
    (ht : s.params.timeout = true) (hne : s.txHead ≠ s.txTail) (hin : s.inputs = .app (encode (.flush m)) src :: .appStep :: rest) :
    ∃ u, (∀ k, core.run (k + 2) s = core.run k u) ∧ u.txHead = s.txHead ∧ u.txTail = s.txTail ∧ u.env = s.env ∧ u.out = s.out :=
  ⟨_, fun _ => (run_succ (step_flush_begins hq hi ht hne hin)).trans (run_appStep rfl rfl (exec_flush_f2 rfl)), rfl, rfl, rfl, rfl⟩

/-! INIT, GETFLAGS and TEARDOWN (spec/42_device_lifecycle.md R181 to R184, R186, R187) -/

theorem capStartRx_failed (off len : Idx) (he : isErr s.choice.resp = true) : (capStartRx off len s).2 = { s with
    calls := ⟨.startRx, off, len, s.choice.resp⟩ :: s.calls
    script := s.script.tail
    freeCtr := s.freeCtr + 1 } := by
  simp only [capStartRx, he, if_true]
  rfl

theorem capStartRx_armed (off len : Idx) (he : isErr s.choice.resp = false) : (capStartRx off len s).2 = { s with
    env := { s.env with rxBatch := some ⟨off, len, len⟩ }
    calls := ⟨.startRx, off, len, s.choice.resp⟩ :: s.calls
    script := s.script.tail
    freeCtr := s.freeCtr + 1 } := by
  simp only [capStartRx, he, Bool.false_eq_true, if_false]
  rfl

theorem suppliesMandatory_iff {p : Params} {m : BitVec 6} : suppliesMandatory p m = true ↔ m &&& mandatory p = mandatory p :=
  beq_iff_eq

theorem exec_init (m : BitVec 6) (hq : s.appSeq = .idle) : exec (.init m) s = .next (initBody m s) := whenIdle_idle hq

theorem exec_getFlags (hq : s.appSeq = .idle) (hi : s.inited = true) :
    exec .getFlags s = .next (s.answerApp (flagsWord s.flags) []) := by
  simp [exec, execGetFlags, hq, hi]

theorem exec_teardown (hq : s.appSeq = .idle) (hi : s.inited = true) :
    exec .teardown s = .next ({ (capAbortRx (capAbortTx s.leaveRunning).2).2 with inited := false }.answerApp
      (firstError (capAbortTx s.leaveRunning).1 (capAbortRx (capAbortTx s.leaveRunning).2).1) []) := by
  simp [exec, execTeardown, hq, hi]

end Sys2Proof.Machine

namespace Sys2Proof.Proofs

open Sys2Proof.Machine

/-- Settles O16: the moves between leave APP at F3, where no time is left to wait. -/
theorem zeroTimeoutFlushReturns : Obligations.ZeroTimeoutFlushReturns := by
  intro s src between between' rest hq hi ht hne hb hin
  have hend {u : State} (hu : core.run (between.length + between'.length + 2) s = .next u) :
      ∃ t, step u = .next t ∧ t.appSeq = .idle ∧ t.inputs = rest ∧ t.txHead = u.txHead ∧ t.txTail = u.txTail ∧ t.env = u.env ∧
        t.out = ⟨.app, if u.txHead = u.txTail then 0#32 else 0xFFFFFFFE#32, []⟩ :: u.out := by
    obtain ⟨hin', t0, hq'⟩ := run_flush_to_f3 (m := 0#24) hq hi ht hne hb hin hu
    exact ⟨_, (step_appStep (i := .flush 0#24) hin' (by rw [hq']; rfl)).trans (exec_flush_f3 hq'), flushF3_zero t0 _⟩
  refine ⟨fun u => hend, ?_⟩
  rintro rfl rfl
  obtain ⟨u, hu, hhead, htail, henv, hout⟩ := run_flush_uninterrupted (m := 0#24) hq hi ht hne hin
  obtain ⟨t, hstep, hq', hin', hhead', htail', henv', hout'⟩ := hend (hu 0)
  rw [hhead, htail, if_neg hne, hout] at hout'
  exact ⟨t, (hu 1).trans (run_succ hstep), hq', hout', hhead'.trans hhead, htail'.trans htail, henv'.trans henv, hin'⟩

/-- Settles O11: the checks of INIT in their order. -/
theorem initChecksArmsAndZeroes : Obligations.InitChecksArmsAndZeroes := by
  intro m s hq need
  have hm : suppliesMandatory s.params m = true ↔ m &&& need = need := suppliesMandatory_iff
  rw [exec_init m hq]
  refine ⟨fun hi => ?_, fun hu hne => ?_, fun hu hall he => ?_, fun hu hall he => ?_⟩
  · rw [initBody, if_pos hi, State.answerApp, ← hq]
    rfl
  · rw [initBody_uninit m hu, if_pos (by simpa using mt hm.1 hne), State.answerApp, ← hq]
    rfl
  · rw [initBody_uninit m hu, if_neg (by simpa using hm.2 hall), if_pos he, capStartRx_failed _ _ he, State.answerApp, ← hq]
  · rw [initBody_uninit m hu, if_neg (by simpa using hm.2 hall), if_neg (by simp [he]), capStartRx_armed _ _ he,
      State.answerApp, ← hq]
    rfl

/-- Settles O13: what the two calls leave of the block's own state. -/
theorem teardownAlwaysUninitialises : Obligations.TeardownAlwaysUninitialises := by
  refine fun s hq => ⟨fun hu => exec_before_init hu nofun fun _ => hq, fun hi => ?_⟩
  intro tx rx
  have htx : tx = capAbortTx s.leaveRunning := rfl
  have hrx : rx = capAbortRx tx.2 := rfl
  refine ⟨_, exec_teardown hq hi, ?_, ?_⟩
  · rw [State.answerApp, ← hq]
    rfl
  · simp [hrx, htx]

/-- Settles O14: `FLAGS` is the result, and the invariant holds its upper bits at 0. -/
theorem getFlagsReadsFlags : Obligations.GetFlagsReadsFlags := by
  refine fun s hq => ⟨fun hu => exec_before_init hu nofun fun _ => hq, fun hi => ?_, fun hi h => ?_⟩
  · rw [exec_getFlags hq hi, State.answerApp, ← hq]
    rfl
  · rw [BitVec.toNat_setWidth_of_le (by decide)]
    exact (h.live hi).flags

/-- Settles O15, one clause for each way a step of FLUSH ends. -/
theorem flushPollsUntilEmptyOrTimeout : Obligations.FlushPollsUntilEmptyOrTimeout := by
  intro m s
  refine ⟨fun hq hu => exec_before_init hu nofun fun _ => hq, fun hq hi he => ?_, fun hq hi hne ht => ?_, fun hq hi hne ht => ?_,
    exec_flush_f2, fun t0 hq he => ?_, fun t0 hq hne hle => ?_, fun t0 hq hne hlt => ?_⟩
  · rw [exec_flush_f1 hq hi, flushF1_empty m he, State.answerApp, ← hq]
    rfl
  · rw [exec_flush_f1 hq hi, flushF1_unsupported m hne ht, State.answerApp, ← hq]
    rfl
  · rw [exec_flush_f1 hq hi, flushF1_begins m hne ht]
    rfl
  · rw [exec_flush_f3 hq, flushF3_empty m t0 he]
    rfl
  · rw [exec_flush_f3 hq, flushF3_timedOut hne (by rwa [elapsed_eq])]
    rfl
  · rw [exec_flush_f3 hq, flushF3_again hne (by rwa [elapsed_eq]), ← hq]
    rfl

end Sys2Proof.Proofs

/-! The capability calls and ENV's own actions (spec/43_capability_calls.md R210 to R219). First what a call leaves of ENV where its
response decides it. -/

namespace Sys2Proof.Machine

variable {s : State}

/-! The responses of `Cap.abortTx` and what the two aborts do to ENV (spec/43_capability_calls.md R213, R216) -/

theorem abortTxResponse_inFlight {r : Run} (h : s.env.txRun = some r) : abortTxResponse s = s.choice.resp := by
  simp only [abortTxResponse, h]

/-- With no run in flight there is nothing to abort, and the call succeeds whatever ENV would have answered. -/
theorem abortTxResponse_not_isErr (h : s.env.txRun = none) : isErr (abortTxResponse s) = false := by
  simp only [abortTxResponse, h]
  split
  · rfl
  · exact Bool.eq_false_iff.2 ‹_›

theorem capAbortRx_env_of_ok (h : isErr s.choice.resp = false) : (capAbortRx s).2.env =
    { s.env with rxBatch := none, pend := ⟨s.env.pend.txComplete, false, false, false⟩ } := by
  rw [capAbortRx_env, h]
  rfl

theorem capAbortTx_env_of_ok (h : isErr (abortTxResponse s) = false) : (capAbortTx s).2.env =
    { s.env with
      txRun := none
      pend := { s.env.pend with txComplete := false }
      txWire := s.env.txWire ++ (runBytes s).take s.choice.sent } := by
  rw [capAbortTx_env, h]
  rfl

/-- Failed or not, an abort takes back nothing from the wire or the line. -/
theorem streams_prefix_capAbortRx (s : State) :
    s.env.txWire <+: (capAbortRx s).2.env.txWire ∧ s.env.rxLine <+: (capAbortRx s).2.env.rxLine := by
  rw [capAbortRx_env]
  split
  · exact ⟨List.prefix_append _ _, List.prefix_append _ _⟩
  · exact ⟨List.prefix_rfl, List.prefix_rfl⟩

theorem txWire_prefix_capAbortTx (s : State) : s.env.txWire <+: (capAbortTx s).2.env.txWire := by
  rw [capAbortTx_env]
  split <;> exact List.prefix_append _ _

/-! ENV's actions where they are enabled (spec/43_capability_calls.md R211, R215, R217 to R219) -/

theorem step_env {a : EnvAction} {rest : List Input} (h : s.inputs = .env a :: rest) :
    step s = envAct a { s with inputs := rest } := step_inputs h

theorem envRx_dropped {b : Byte} (h : s.env.rxBatch = none ∨ ∃ x, s.env.rxBatch = some x ∧ x.rem = 0#24) :
    envRx b s = .next s := by
  rcases h with h | ⟨x, h, h0⟩
  · simp only [envRx, h]
  · simp only [envRx, h, if_pos h0]

theorem envRx_stored {b : Byte} {x : Batch} (h : s.env.rxBatch = some x) (h0 : x.rem ≠ 0#24)
    (hslot : x.off.toNat + (x.len.toNat - x.rem.toNat) < s.params.rxCap) : envRx b s = .next (storeArrival x b s) := by
  simp only [envRx, h, if_neg h0, if_pos hslot]

theorem envTxDone_completed {r : Run} (h : s.env.txRun = some r) (hr : r.off.toNat + r.len.toNat ≤ s.params.txCap) :
    envTxDone s = .next (completeRun r s) := by
  simp only [envTxDone, h, if_pos hr]

theorem envHalf_armed (h : s.env.rxBatch ≠ none) :
    envHalf s = .next { s with env := { s.env with pend := s.env.pend.put true .rxHalf } } := by
  obtain ⟨x, hx⟩ := Option.ne_none_iff_exists'.1 h
  simp only [envHalf, hx]

theorem envTick_eq (k : Nat) (s : State) : envTick k s = { s with env := { s.env with now := s.env.now + BitVec.ofNat 32 k } } := by
  rw [envTick, BitVec.ofNat_add, BitVec.ofNat_toNat, BitVec.setWidth_eq]

/-- A count that is not yet 0 counts down without a wrap. -/
theorem sub_one_eq_idxOf {x : Idx} (h : 0 < x.toNat) : x - 1#24 = idxOf (x.toNat - 1) := by
  have hlt := x.isLt
  apply BitVec.eq_of_toNat_eq
  rw [idxOf_toNat (by omega)]
  bv_omega

/-- The last byte of a batch raises RX_COMPLETE, any other leaves it as it is. -/
theorem storeArrival_pend (x : Batch) (b : Byte) (s : State) : (storeArrival x b s).env.pend =
    { s.env.pend with rxComplete := s.env.pend.rxComplete || decide (x.rem.toNat = 1) } := by
  have hlast : x.rem.toNat = 1 ↔ x.rem = 1#24 := BitVec.toNat_inj (y := 1#24)
  by_cases h : x.rem = 1#24
  · simp [storeArrival, Pend.put, h]
  · simp [storeArrival, hlast, h]

theorem storeArrival_eq {x : Batch} (b : Byte) (s : State) (h : 0 < x.rem.toNat) : storeArrival x b s = { s with
    rxBuf := s.rxBuf.store (x.off.toNat + (x.len.toNat - x.rem.toNat)) b
    env := { s.env with
      rxBatch := some { x with rem := idxOf (x.rem.toNat - 1) }
      rxLine := s.env.rxLine ++ [b]
      pend := { s.env.pend with rxComplete := s.env.pend.rxComplete || decide (x.rem.toNat = 1) } } } := by
  rw [← storeArrival_pend x b s, ← sub_one_eq_idxOf h]
  rfl

end Sys2Proof.Machine

namespace Sys2Proof.Proofs

open Sys2Proof.Machine

/-- Settles O40: the slot is inside the buffer, so the step is one store there. -/
theorem arrivalStoresOneByte : Obligations.ArrivalStoresOneByte := by
  intro s rest b x hin hx hpos slot hslot
  have h0 : x.rem ≠ 0#24 := by bv_omega
  refine ⟨s.rxBuf.store slot b, ?_, ?_, fun a ha => ?_, fun hwf => Memory.store_wf hwf hslot⟩
  · calc step s
      _ = envRx b { s with inputs := rest } := step_env hin
      _ = .next (storeArrival x b { s with inputs := rest }) := envRx_stored hx h0 hslot
      _ = _ := by rw [storeArrival_eq _ _ hpos]
  · rw [readByte_store, if_pos rfl]
  · rw [readByte_store, if_neg ha]

/-- Settles O37: the calls by their response; a failed abort only adds to the two streams. -/
theorem receiveCapabilities : Obligations.ReceiveCapabilities := by
  refine ⟨fun off len s => rfl, fun s b h => capRxRemaining_armed h, fun s h => ?_, fun s => ?_⟩
  · rw [← capAbortRx_env_of_ok h]
    rfl
  · exact ⟨(capAbortRx s).2.env, rfl, streams_prefix_capAbortRx s⟩

/-- Settles O38: the response of an abort is ENV's only while a run is in flight, and a success puts what ENV chose to send of that
run on the wire. -/
theorem transmitCapabilities : Obligations.TransmitCapabilities := by
  refine ⟨fun off len s h => ?_, fun s h => abortTxResponse_not_isErr h, fun s h => ?_, fun s ⟨r, h⟩ => abortTxResponse_inFlight h,
    fun s => ?_⟩
  · rw [← afterStartTx_none h]
    rfl
  · refine ⟨(runBytes s).take s.choice.sent, List.take_prefix _ _, ?_⟩
    rw [← capAbortTx_env_of_ok h]
    rfl
  · exact ⟨(capAbortTx s).2.env, rfl, capAbortTx_env_rxBatch s, capAbortTx_env_rxLine s, txWire_prefix_capAbortTx s⟩

/-- Settles O39, one action at a time. -/
theorem environmentActions : Obligations.EnvironmentActions := by
  refine fun s rest => ⟨fun b hin h => ?_, fun r hin hr hrange => ?_, fun hin => ?_, fun hin hb => ?_, fun k hin => ?_⟩
  · exact (step_env hin).trans (envRx_dropped h)
  · exact (step_env hin).trans (envTxDone_completed hr hrange)
  · exact step_env hin
  · exact (step_env hin).trans (envHalf_armed hb)
  · exact (step_env hin).trans (congrArg _ (envTick_eq k _))

end Sys2Proof.Proofs

/-! Every operation answers, and how (spec/60_exceptions.md R240 to R251): none stops in a state that meets the invariant, and the
error of a start or abort call is the result. -/

namespace Sys2Proof.Machine

variable {s t u : State} {i : Instr}

/-! No operation stops (spec/60_exceptions.md R240) -/

/-- ENV keeps its contract with an Initialised block, so a refresh always answers (spec/41_rx_engine.md R151, R161). -/
theorem Inv.remaining_le (h : Inv s) (hi : s.inited = true) : (capRxRemaining s).1.toNat ≤ s.rxSize.toNat := by
  obtain ⟨b, hb, -, hlen, hrem⟩ := (h.live hi).batch
  rw [capRxRemaining_armed hb, countWord_toNat, ← hlen]
  exact hrem

theorem exec_uninit_answers (hu : s.inited = false) (hq : i.port = .app → s.appSeq = .idle) : ∃ t, exec i s = .next t := by
  cases i with
  | init m => exact ⟨_, exec_init m (hq rfl)⟩
  | _ => exact ⟨_, exec_uninit hu nofun hq⟩

theorem exec_irq_answers (h : Inv s) (hi : s.inited = true) (hp : i.port = .irq) : ∃ t, exec i s = .next t := by
  have hle := h.remaining_le hi
  cases i with
  | init | enqueue | read | flush | getFlags | cont | abortTx | teardown => cases hp
  | txComplete =>
    cases hr : s.txRun with
    | false => exact ⟨_, exec_txComplete_idle hi hr⟩
    | true => exact ⟨_, exec_txComplete_running hi hr⟩
  | rxHalf => exact ⟨_, exec_refresh (.inr rfl) hi hle⟩
  | rxComplete =>
    by_cases h0 : (capRxRemaining s).1 = 0#32
    · exact ⟨_, exec_rxComplete_boundary hi h0⟩
    · exact ⟨_, exec_rxComplete_progress hi hle h0⟩
  | idleLine => exact ⟨_, exec_refresh (.inl rfl) hi hle⟩

/-- An APP operation that begins; of ENQUEUE with its bytes beside it (spec/30_encoding.md R97). -/
theorem exec_idle_answers (h : Inv s) (hi : s.inited = true) (hp : i.port = .app) (hq : s.appSeq = .idle)
    (hsrc : ∀ len, i = .enqueue len → s.appSrc.length = len.toNat) : ∃ t, exec i s = .next t := by
  cases i with
  | init m => exact ⟨_, exec_init m hq⟩
  | enqueue len =>
    by_cases hn : min len.toNat (txFree s.params s.txHead s.txTail) = 0
    · exact ⟨_, exec_enqueue_none hq hi (hsrc len rfl) hn⟩
    · exact ⟨_, exec_enqueue_admits hq hi (hsrc len rfl) hn⟩
  | read m => exact ⟨_, exec_read_r1 hq hi (h.remaining_le hi)⟩
  | flush m => exact ⟨_, exec_flush_f1 hq hi⟩
  | getFlags => exact ⟨_, exec_getFlags hq hi⟩
  | cont => exact ⟨_, exec_cont hq hi⟩
  | abortTx => exact ⟨_, exec_abortTx hq hi⟩
  | teardown => exact ⟨_, exec_teardown hq hi⟩
  | txComplete | rxHalf | rxComplete | idleLine => cases hp

/-- A further step of an operation; the two copies are in range by what the invariant says of their snapshots. -/
theorem exec_inProgress_answers (h : Inv s) (hc : s.appSeq.current? = some i) : ∃ t, exec i s = .next t := by
  cases hq : s.appSeq with
  | idle => simp [hq, AppSeq.current?] at hc
  | enqueue label v =>
    cases hq ▸ hc
    cases label with
    | e2 =>
      obtain ⟨-, -, -, hr⟩ := h.atE2 hq
      exact ⟨_, exec_enqueue_e2 hq hr⟩
    | e3 => exact ⟨_, exec_enqueue_e3 hq⟩
    | e4 => exact ⟨_, exec_enqueue_e4 hq⟩
  | readR2 m => cases hq ▸ hc; exact ⟨_, exec_read_r2 hq⟩
  | readR3 m hd n =>
    cases hq ▸ hc
    obtain ⟨-, hhead, hcap⟩ := h.atR3 hq
    exact ⟨_, exec_read_r3 hq (ringInRange_of_lt hhead (Nat.le_of_lt hcap))⟩
  | readR4 m hd n dst => cases hq ▸ hc; exact ⟨_, exec_read_r4 hq⟩
  | flushF2 m => cases hq ▸ hc; exact ⟨_, exec_flush_f2 hq⟩
  | flushF3 m t0 => cases hq ▸ hc; exact ⟨_, exec_flush_f3 hq⟩

/-! The errors of start and abort calls (spec/60_exceptions.md R242, R243) -/

theorem NewCalls.unique {new made : List CapCall} (h : NewCalls s t new) (h' : NewCalls s t made) : new = made :=
  List.append_cancel_right (h.symm.trans h')

/-- Every start or abort call from `s` to `t` that failed was answered `v`. -/
def ErrorsAre (v : Word) (s t : State) : Prop :=
  ∃ made, NewCalls s t made ∧ ∀ c ∈ made, c.hasResult → isErr c.resp = true → c.resp = v

namespace ErrorsAre

variable {v : Word}

theorem of_noCall (h : t.calls = s.calls) : ErrorsAre v s t := ⟨[], h, by simp⟩

theorem of_call {cap : Capability} {off len : Idx} (h : t.calls = ⟨cap, off, len, v⟩ :: s.calls) : ErrorsAre v s t :=
  ⟨[_], h, by simp⟩

/-- Neither `Cap.rxRemaining` nor `Cap.nowMillis` answers with a result word (spec/43_capability_calls.md R210). -/
theorem of_noResult {c : CapCall} (h : t.calls = c :: s.calls) (hc : ¬ c.hasResult) : ErrorsAre v s t :=
  ⟨[c], h, by simp [hc]⟩

theorem of_success {c : CapCall} (h : t.calls = c :: s.calls) (hok : isErr c.resp = false) : ErrorsAre v s t :=
  ⟨[c], h, by simp [hok]⟩

theorem trans (h : ErrorsAre v s t) (h' : ErrorsAre v t u) : ErrorsAre v s u := by
  obtain ⟨made, hm, hv⟩ := h
  obtain ⟨made', hm', hv'⟩ := h'
  exact ⟨made' ++ made, by rw [NewCalls, hm', hm, List.append_assoc],
    fun c hc => (List.mem_append.1 hc).elim (hv' c) (hv c)⟩

theorem of_eq (h : ErrorsAre v s t) (e : u.calls = t.calls) : ErrorsAre v s u := h.trans (of_noCall e)

theorem continueAction (s : State) : ErrorsAre (continueAction s).1 s (continueAction s).2 := by
  rcases continueAction_cases s with ⟨-, e⟩ | ⟨-, -, -, e⟩ | ⟨-, -, he, e⟩ <;> rw [e]
  · exact .of_noCall rfl
  · exact .of_call rfl
  · exact .of_success rfl he

theorem rearm (s : State) : ErrorsAre (rearm s).1 s (rearm s).2 := by
  rcases rearm_cases s with ⟨-, e⟩ | ⟨he, e⟩ <;> rw [e]
  · exact .of_call rfl
  · exact .of_success rfl he

/-- The refresh makes no start or abort call. -/
theorem refreshed (s : State) : ErrorsAre v s ((capRxRemaining s).2.refreshTail (capRxRemaining s).1) :=
  .of_noResult (capRxRemaining_calls s) (by simp [CapCall.hasResult])

end ErrorsAre

/-- The error of a start or abort call from `s` to `t` is the result on `p`. -/
def ErrorIsResult (p : Port) (s t : State) : Prop :=
  ∃ v, ErrorsAre v s t ∧ (isErr v = true → t.out = ⟨p, v, []⟩ :: s.out)

theorem ErrorIsResult.of_noError {p : Port} (h : ErrorsAre (codeWord .ok) s t) : ErrorIsResult p s t :=
  ⟨_, h, fun he => absurd he (by decide)⟩

/-- Every operation but TEARDOWN makes at most one start or abort call and passes its error on. -/
theorem exec_errorIsResult (hi : i ≠ .teardown) (hx : exec i s = .next t) : ErrorIsResult i.port s t := by
  cases exec_effect hx with
  | initFailed => exact ⟨s.choice.resp, .of_call rfl, fun _ => rfl⟩
  | initialised m _ _ he => exact .of_noError (.of_success rfl he)
  | continued => exact ⟨_, (ErrorsAre.continueAction s).of_eq rfl, fun _ => by simp [Instr.port]⟩
  | aborted hinit =>
    obtain ⟨hq, -⟩ := execAbortTx_next hx
    have hend := Host.Outcome.next.inj (hx.symm.trans (exec_abortTx hq hinit))
    refine ⟨abortTxResponse s.leaveRunning, .of_call rfl, fun he => ?_⟩
    rw [hend, capAbortTx_resp, if_pos he]
    rfl
  | tornDown => exact absurd rfl hi
  | credited =>
    have hc : ErrorsAre _ s (continueAction s.creditRun).2 := .continueAction s.creditRun
    exact ⟨_, hc.of_eq rfl, fun _ => by simp [Instr.port]⟩
  | rearmed =>
    exact ⟨_, ((ErrorsAre.refreshed s).trans (.rearm _)).of_eq rfl, fun _ => by simp [Instr.port]⟩
  | kicked len v hq | rolledBack len v hq =>
    have hend := Host.Outcome.next.inj ((exec_enqueue_e4 hq).symm.trans hx)
    refine ⟨_, (ErrorsAre.continueAction s).of_eq rfl, fun he => ?_⟩
    rw [← hend, enqueueE4_error he]
    simp [Instr.port]
  | refreshed | readRefreshed => exact .of_noError ((ErrorsAre.refreshed s).of_eq rfl)
  | clockRead | timedOut => exact .of_noError (.of_noResult (capNowMillis_calls s) (by simp [CapCall.hasResult]))
  | _ => exact .of_noError (.of_noCall rfl)

theorem firstError_of_first {r1 r2 : Word} (h : isErr r1 = true) : firstError r1 r2 = r1 := if_pos h

theorem firstError_of_second {r1 r2 : Word} (h1 : isErr r1 = false) (h2 : isErr r2 = true) : firstError r1 r2 = r2 := by
  simp [firstError, h1, h2]

/-- TEARDOWN either makes no call or both aborts, with the first error as its result (spec/42_device_lifecycle.md R187). -/
theorem exec_teardown_calls (hx : exec .teardown s = .next t) : NewCalls s t [] ∨
    ∃ tx rx, NewCalls s t [⟨.abortRx, 0#24, 0#24, rx⟩, ⟨.abortTx, 0#24, 0#24, tx⟩] ∧
      t.out = ⟨.app, firstError tx rx, []⟩ :: s.out := by
  obtain ⟨-, ⟨-, rfl⟩ | ⟨-, rfl⟩⟩ := execTeardown_next hx
  · exact .inl rfl
  · exact .inr ⟨_, _, rfl, rfl⟩

end Sys2Proof.Machine

namespace Sys2Proof.Proofs

open Sys2Proof.Machine

/-- Settles O7: a further step of the operation in progress, a command that finds the block Uninitialised, and one to an
Initialised block on either port. -/
theorem everyOperationAnswers : Obligations.EveryOperationAnswers := by
  intro i s h hplace hsrc
  by_cases hc : s.appSeq.current? = some i
  · exact exec_inProgress_answers h hc
  · have hq : i.port = .app → s.appSeq = .idle := fun hp => (hplace hp).resolve_right hc
    cases hi : s.inited with
    | false => exact exec_uninit_answers hi hq
    | true =>
      cases hp : i.port with
      | app => exact exec_idle_answers h hi hp (hq hp) fun len he => hsrc len he (hq hp)
      | irq => exact exec_irq_answers h hi hp

/-- Settles O10: the guard that every operation but INIT begins with. -/
theorem uninitialisedRefusesEveryCommand : Obligations.UninitialisedRefusesEveryCommand := fun _ _ => exec_before_init

/-- Settles O41: an operation other than TEARDOWN by its one call, TEARDOWN by which of its two calls failed. -/
theorem capabilityErrorsPassThrough : Obligations.CapabilityErrorsPassThrough := by
  intro i s t new c hx hn hc hres he
  refine ⟨fun hi => ?_, ?_⟩
  · obtain ⟨v, ⟨made, hm, hv⟩, hout⟩ := exec_errorIsResult hi hx
    cases hn.unique hm
    cases hv c hc hres he
    exact hout he
  · rintro rfl
    obtain hm | ⟨tx, rx, hm, hout⟩ := exec_teardown_calls hx <;> cases hn.unique hm
    · cases hc
    · obtain rfl | rfl : c = ⟨.abortRx, 0#24, 0#24, rx⟩ ∨ c = ⟨.abortTx, 0#24, 0#24, tx⟩ := by simpa using hc
      · cases htx : isErr tx with
        | false => exact .inl (by rw [hout, firstError_of_second htx he])
        | true => exact .inr ⟨rfl, ⟨.abortTx, 0#24, 0#24, tx⟩, by simp, rfl, htx, by rw [hout, firstError_of_first htx]⟩
      · exact .inl (by rw [hout, firstError_of_first he])

/-- Settles O5, one clause for each kind of step. -/
theorem stepRunsTheDecodedInstruction : Obligations.StepRunsTheDecodedInstruction := by
  refine ⟨fun s p cw src rest i hin hq hd => ?_, fun s rest i hin hc => step_appStep hin hc, fun s rest e hin he => ?_,
    fun s i hin hc => ?_, fun s hin hq => ?_⟩
  · rw [step_command hin hq, runWord_ok hd]
  · rw [step_inputs hin]
    exact if_pos he
  · rw [step, hin, runUnscheduled, hc]
  · rw [step, hin, runUnscheduled, hq]
    rfl

end Sys2Proof.Proofs

/-! Hardware reset (spec/70_reset_and_hazards.md R280): what the reset move answers, and ENV without an event. -/

namespace Sys2Proof.Machine

@[simp] theorem Pend.get_none (e : Event) : Pend.none.get e = false := by cases e <;> rfl

/-- No event is pending after a reset (spec/10_state.md R43). -/
@[simp] theorem Env.reset_pend_get (e : Event) : Env.reset.pend.get e = false := Pend.get_none e

theorem step_reset {s : State} {rest : List Input} (h : s.inputs = .reset :: rest) :
    step s = .next (hardwareReset { s with inputs := rest }) := step_inputs h

end Sys2Proof.Machine

namespace Sys2Proof.Proofs

open Sys2Proof.Machine

/-- Settles O9: the reset move replaces ENV by `Env.reset` and keeps the parameters and the schedule, and the reset state, Idle with
an empty schedule, waits. -/
theorem hardwareResetIsUninitialised : Obligations.HardwareResetIsUninitialised := by
  refine ⟨fun s rest h => ⟨_, step_reset h, rfl, rfl, rfl, rfl, rfl, Env.reset_pend_get, rfl⟩,
    rfl, rfl, rfl, rfl, Env.reset_pend_get, ?_⟩
  obtain ⟨-, -, -, -, hwaits⟩ := stepRunsTheDecodedInstruction
  exact hwaits State.reset rfl rfl

end Sys2Proof.Proofs
